-- ==== Sys2Proof/Word.lean ====
section
/-! DEFINITION. The bit-vector types of the machine (spec/00_scope.md R7, R8: every value is an unsigned
integer of a stated width, bit 0 the least significant). -/

namespace Sys2Proof

/-- A byte: a general register, a timer, a byte of memory (R5, REG_WIDTH, TIMER_WIDTH). -/
abbrev Byte := BitVec 8

/-- A 16-bit word: an instruction word, `I`, `pc`, a return address (R5). -/
abbrev Word := BitVec 16

/-- The number of a general register, the 4-bit field `X` or `Y` (R21: every value selects a register). -/
abbrev RegIx := BitVec 4

/-- The number of a key, 0x0 to 0xF (R33). -/
abbrev KeyIx := BitVec 4

/-- The 12-bit field `NNN` (R92). -/
abbrev Addr := BitVec 12

/-- Register 15, `VF`, the only flag of the machine (R22). -/
abbrev vF : RegIx := 15#4

/-- Register 0, the implicit source of jump-with-offset (R147). -/
abbrev v0 : RegIx := 0#4

end Sys2Proof
end

