-- ==== Sys2Proof/Config.lean ====
section
/-! DEFINITION. The fixed sizes of the hardware (spec/00_scope.md R5) and the one free value, the random byte.
The two parameters of R6, FONT_TABLE and KEY_PRIORITY, are the arguments of Machine/Params.lean. -/

namespace Sys2Proof

/-- MEM_SIZE: bytes of memory, addresses 0 to 4095 (R5, R60). -/
abbrev Config.memSize : Nat := 4096

/-- STACK_DEPTH: entries of the call stack (R5, R28). -/
abbrev Config.stackDepth : Nat := 16

/-- PC_RESET: the program counter after reset (R5, R26, R292). -/
abbrev Config.pcReset : Word := 0x200#16

/-- I_ADD_STEP: the fixed increment of add-to-index (R5, R191). -/
abbrev Config.indexStep : Nat := 8

/-- The largest value of the 12-bit range of `I`, also I_MASK (R5, R191). -/
abbrev Config.indexMask : Nat := 0x0FFF

/-- The random byte of the `n`-th execution of RND (R129, R172: "any of the 256 values, a fresh one for each
execution of RND, under no law"). A FREE VALUE: it has no body, so a theorem about it holds whatever the
bytes are. Log 1. -/
opaque Config.randByte : Nat → Byte

end Sys2Proof
end

