-- ==== Sys2Proof/Syntax.lean ====
section
/-! DEFINITION. The 34 instructions of spec/30_encoding.md R96, in the order of its map, each with the operand
fields its format gives it (R94). The operand types hold exactly the values of the fields, so every term of
`Instr` is an instruction of the machine; the check on numbers as they are written is WellFormed.lean's. -/

namespace Sys2Proof

/-- One constructor per row of spec/opcode_table.json. `ADD_I` keeps its field `X`, which its meaning ignores
(R100), so that no bit of the word is lost. -/
inductive Instr where
  /-- CLS, word 00E0, "clear-screen" (R210). -/
  | cls
  /-- RET, word 00EE, "return" (R140). -/
  | ret
  /-- JP, word 1NNN, "jump addr" (R141). -/
  | jp (nnn : Addr)
  /-- CALL, word 2NNN, "call addr" (R142). -/
  | call (nnn : Addr)
  /-- SE_IMM, word 3XNN, "skip-if-equal Vx,imm" (R143). -/
  | seImm (x : RegIx) (nn : Byte)
  /-- SNE_IMM, word 4XNN, "skip-if-not-equal Vx,imm" (R144). -/
  | sneImm (x : RegIx) (nn : Byte)
  /-- SE_REG, word 5XY0, "skip-if-registers-equal Vx,Vy" (R145). -/
  | seReg (x : RegIx) (y : RegIx)
  /-- LD_IMM, word 6XNN, "set Vx,imm" (R160). -/
  | ldImm (x : RegIx) (nn : Byte)
  /-- ADD_IMM, word 7XNN, "add Vx,imm" (R161). -/
  | addImm (x : RegIx) (nn : Byte)
  /-- LD_REG, word 8XY0, "ALU Vx,Vy assign" (R162). -/
  | ldReg (x : RegIx) (y : RegIx)
  /-- OR, word 8XY1, "ALU Vx,Vy OR" (R163). -/
  | orReg (x : RegIx) (y : RegIx)
  /-- AND, word 8XY2, "ALU Vx,Vy AND" (R164). -/
  | andReg (x : RegIx) (y : RegIx)
  /-- XOR, word 8XY3, "ALU Vx,Vy XOR" (R165). -/
  | xorReg (x : RegIx) (y : RegIx)
  /-- ADD_REG, word 8XY4, "add Vx,Vy" (R166). -/
  | addReg (x : RegIx) (y : RegIx)
  /-- SUB, word 8XY5, "sub Vx,Vy (x-y)" (R167). -/
  | sub (x : RegIx) (y : RegIx)
  /-- SHR, word 8XY6, "shift-right Vx<-Vy" (R168). -/
  | shr (x : RegIx) (y : RegIx)
  /-- SUBN, word 8XY7, "sub Vx,Vy (y-x, reverse)" (R169). -/
  | subn (x : RegIx) (y : RegIx)
  /-- SHL, word 8XYE, "shift-left Vx<-Vy" (R170). -/
  | shl (x : RegIx) (y : RegIx)
  /-- SNE_REG, word 9XY0, "skip-if-registers-not-equal Vx,Vy" (R146). -/
  | sneReg (x : RegIx) (y : RegIx)
  /-- LD_I, word ANNN, "set-index addr" (R190). -/
  | ldI (nnn : Addr)
  /-- JP_V0, word BNNN, "jump-with-offset addr" (R147). -/
  | jpV0 (nnn : Addr)
  /-- RND, word CXNN, "random Vx,mask" (R172). -/
  | rnd (x : RegIx) (nn : Byte)
  /-- DRW, word DXYN, "draw Vx,Vy,n" (R211). -/
  | drw (x : RegIx) (y : RegIx) (n : BitVec 4)
  /-- SKP, word EX9E, "skip-if-key-pressed Vx" (R220). -/
  | skp (x : RegIx)
  /-- SKNP, word EXA1, "skip-if-key-not-pressed Vx" (R221). -/
  | sknp (x : RegIx)
  /-- LD_VX_DT, word FX07, "get-delay-timer Vx" (R222). -/
  | ldVxDt (x : RegIx)
  /-- LD_VX_K, word FX0A, "get-key Vx" (R225). -/
  | ldVxK (x : RegIx)
  /-- LD_DT_VX, word FX15, "set-delay-timer Vx" (R223). -/
  | ldDtVx (x : RegIx)
  /-- LD_ST_VX, word FX18, "set-sound-timer Vx" (R224). -/
  | ldStVx (x : RegIx)
  /-- ADD_I, word FX1E, "add-to-index Vx" (R191). -/
  | addI (x : RegIx)
  /-- LD_F, word FX29, "font-character Vx" (R192). -/
  | ldF (x : RegIx)
  /-- BCD, word FX33, "bcd Vx" (R193). -/
  | bcd (x : RegIx)
  /-- ST_REGS, word FX55, "store-registers Vx" (R195). -/
  | stRegs (x : RegIx)
  /-- LD_REGS, word FX65, "load-registers Vx" (R196). -/
  | ldRegs (x : RegIx)
  deriving DecidableEq, Repr

end Sys2Proof
end

