-- ==== Sys2Proof/WellFormed.lean ====
section
/-! DEFINITION. Formats, mnemonics and the check on an instruction as it is written (spec/30_encoding.md R94,
R101, R102). "a number that does not fit the field is an assembly error" (R101): `AsmLine.wellFormed` is that check.
The terms of `Instr` need none, since their operand types admit the field values and nothing else. -/

namespace Sys2Proof

/-- The six formats of R94: which fields of the word carry operands. -/
inductive Format where
  /-- all 16 bits fixed -/
  | w
  /-- operand NNN -/
  | a
  /-- operands X, NN -/
  | xi
  /-- operands X, Y -/
  | xy
  /-- operands X, Y, N -/
  | xyn
  /-- operand X -/
  | xf
  deriving DecidableEq, Repr

/-- The mnemonics of R96 and R101, one per row of the opcode map. -/
inductive Mnemonic where
  | cls
  | ret
  | jp
  | call
  | seImm
  | sneImm
  | seReg
  | ldImm
  | addImm
  | ldReg
  | orReg
  | andReg
  | xorReg
  | addReg
  | sub
  | shr
  | subn
  | shl
  | sneReg
  | ldI
  | jpV0
  | rnd
  | drw
  | skp
  | sknp
  | ldVxDt
  | ldVxK
  | ldDtVx
  | ldStVx
  | addI
  | ldF
  | bcd
  | stRegs
  | ldRegs
  deriving DecidableEq, Repr

/-- The format of each instruction (R94, R96). -/
def Mnemonic.format : Mnemonic → Format
  | .cls => .w
  | .ret => .w
  | .jp => .a
  | .call => .a
  | .seImm => .xi
  | .sneImm => .xi
  | .seReg => .xy
  | .ldImm => .xi
  | .addImm => .xi
  | .ldReg => .xy
  | .orReg => .xy
  | .andReg => .xy
  | .xorReg => .xy
  | .addReg => .xy
  | .sub => .xy
  | .shr => .xy
  | .subn => .xy
  | .shl => .xy
  | .sneReg => .xy
  | .ldI => .a
  | .jpV0 => .a
  | .rnd => .xi
  | .drw => .xyn
  | .skp => .xf
  | .sknp => .xf
  | .ldVxDt => .xf
  | .ldVxK => .xf
  | .ldDtVx => .xf
  | .ldStVx => .xf
  | .addI => .xf
  | .ldF => .xf
  | .bcd => .xf
  | .stRegs => .xf
  | .ldRegs => .xf

/-- The mnemonic of an instruction. -/
def Instr.mnemonic : Instr → Mnemonic
  | .cls => .cls
  | .ret => .ret
  | .jp _ => .jp
  | .call _ => .call
  | .seImm _ _ => .seImm
  | .sneImm _ _ => .sneImm
  | .seReg _ _ => .seReg
  | .ldImm _ _ => .ldImm
  | .addImm _ _ => .addImm
  | .ldReg _ _ => .ldReg
  | .orReg _ _ => .orReg
  | .andReg _ _ => .andReg
  | .xorReg _ _ => .xorReg
  | .addReg _ _ => .addReg
  | .sub _ _ => .sub
  | .shr _ _ => .shr
  | .subn _ _ => .subn
  | .shl _ _ => .shl
  | .sneReg _ _ => .sneReg
  | .ldI _ => .ldI
  | .jpV0 _ => .jpV0
  | .rnd _ _ => .rnd
  | .drw _ _ _ => .drw
  | .skp _ => .skp
  | .sknp _ => .sknp
  | .ldVxDt _ => .ldVxDt
  | .ldVxK _ => .ldVxK
  | .ldDtVx _ => .ldDtVx
  | .ldStVx _ => .ldStVx
  | .addI _ => .addI
  | .ldF _ => .ldF
  | .bcd _ => .bcd
  | .stRegs _ => .stRegs
  | .ldRegs _ => .ldRegs

/-- An instruction as it is written (R101): its mnemonic and its operand numbers in the order X, Y, then N, NN or
NNN. Numbers are unbounded here. -/
structure AsmLine where
  mnemonic : Mnemonic
  operands : List Nat
  deriving DecidableEq, Repr

/-- The numbers are as many as the format has operands and each fits its field (R92, R93, R101): register numbers
and `N` below 16, `NN` below 256, `NNN` below 4096. -/
def AsmLine.wellFormed (l : AsmLine) : Bool :=
  match l.mnemonic.format, l.operands with
  | .w, [] => true
  | .a, [nnn] => decide (nnn < 4096)
  | .xi, [x, nn] => decide (x < 16) && decide (nn < 256)
  | .xy, [x, y] => decide (x < 16) && decide (y < 16)
  | .xyn, [x, y, n] => decide (x < 16) && decide (y < 16) && decide (n < 16)
  | .xf, [x] => decide (x < 16)
  | _, _ => false

/-- The line that an instruction is written as. -/
def Instr.asmLine : Instr → AsmLine
  | .cls => ⟨.cls, []⟩
  | .ret => ⟨.ret, []⟩
  | .jp nnn => ⟨.jp, [nnn.toNat]⟩
  | .call nnn => ⟨.call, [nnn.toNat]⟩
  | .seImm x nn => ⟨.seImm, [x.toNat, nn.toNat]⟩
  | .sneImm x nn => ⟨.sneImm, [x.toNat, nn.toNat]⟩
  | .seReg x y => ⟨.seReg, [x.toNat, y.toNat]⟩
  | .ldImm x nn => ⟨.ldImm, [x.toNat, nn.toNat]⟩
  | .addImm x nn => ⟨.addImm, [x.toNat, nn.toNat]⟩
  | .ldReg x y => ⟨.ldReg, [x.toNat, y.toNat]⟩
  | .orReg x y => ⟨.orReg, [x.toNat, y.toNat]⟩
  | .andReg x y => ⟨.andReg, [x.toNat, y.toNat]⟩
  | .xorReg x y => ⟨.xorReg, [x.toNat, y.toNat]⟩
  | .addReg x y => ⟨.addReg, [x.toNat, y.toNat]⟩
  | .sub x y => ⟨.sub, [x.toNat, y.toNat]⟩
  | .shr x y => ⟨.shr, [x.toNat, y.toNat]⟩
  | .subn x y => ⟨.subn, [x.toNat, y.toNat]⟩
  | .shl x y => ⟨.shl, [x.toNat, y.toNat]⟩
  | .sneReg x y => ⟨.sneReg, [x.toNat, y.toNat]⟩
  | .ldI nnn => ⟨.ldI, [nnn.toNat]⟩
  | .jpV0 nnn => ⟨.jpV0, [nnn.toNat]⟩
  | .rnd x nn => ⟨.rnd, [x.toNat, nn.toNat]⟩
  | .drw x y n => ⟨.drw, [x.toNat, y.toNat, n.toNat]⟩
  | .skp x => ⟨.skp, [x.toNat]⟩
  | .sknp x => ⟨.sknp, [x.toNat]⟩
  | .ldVxDt x => ⟨.ldVxDt, [x.toNat]⟩
  | .ldVxK x => ⟨.ldVxK, [x.toNat]⟩
  | .ldDtVx x => ⟨.ldDtVx, [x.toNat]⟩
  | .ldStVx x => ⟨.ldStVx, [x.toNat]⟩
  | .addI x => ⟨.addI, [x.toNat]⟩
  | .ldF x => ⟨.ldF, [x.toNat]⟩
  | .bcd x => ⟨.bcd, [x.toNat]⟩
  | .stRegs x => ⟨.stRegs, [x.toNat]⟩
  | .ldRegs x => ⟨.ldRegs, [x.toNat]⟩

/-- What an assembler takes (R102): an instruction, or the one directive `DB b, b, ...`. Labels are numbers by then. -/
inductive AsmItem where
  | instr (line : AsmLine)
  | db (values : List Nat)
  deriving DecidableEq, Repr

/-- A `DB` places bytes, so each of its numbers fits a byte (R101, R102). -/
def AsmItem.wellFormed : AsmItem → Bool
  | .instr line => line.wellFormed
  | .db values => values.all fun v => decide (v < 256)

end Sys2Proof
end

