-- ==== Sys2Proof/Decode.lean ====
section
/-! DEFINITION. The encoding (spec/30_encoding.md R90 to R102): the fields of a word, the total decoder, the encoder,
the opcode map as the spec prints it, and the assembler. -/

namespace Sys2Proof

/-- The six fields, extracted from every word (R92, R124). -/
structure Fields where
  op : BitVec 4
  x : RegIx
  y : RegIx
  n : BitVec 4
  nn : Byte
  nnn : Addr
  deriving DecidableEq, Repr

/-- Why bytes are no instruction. -/
inductive DecodeError where
  /-- fewer than two bytes are left -/
  | truncated
  /-- the word matches no row of R96 (R97, R98) -/
  | unrecognized (word : Word)
  deriving DecidableEq, Repr

/-- The bit positions of the fields (R92). -/
def fieldsOf (w : Word) : Fields where
  op := w.extractLsb' 12 4
  x := w.extractLsb' 8 4
  y := w.extractLsb' 4 4
  n := w.extractLsb' 0 4
  nn := w.extractLsb' 0 8
  nnn := w.extractLsb' 0 12

/-- A word from its two bytes, the first the high one (R67, R91). -/
def wordOfBytes (hi lo : Byte) : Word := hi ++ lo

/-- The two bytes of a word, the high one first (R67, R91). -/
def bytesOfWord (w : Word) : List Byte := [w.extractLsb' 8 8, w.extractLsb' 0 8]

/-- The case analysis of R97 on `OP`, then on `N` or `NN`, with every bit that is no operand fixed (R98). -/
def classify (f : Fields) : Option Mnemonic :=
  match f.op with
  | 0x0#4 => if f.nnn = 0x0E0#12 then some .cls else if f.nnn = 0x0EE#12 then some .ret else none
  | 0x1#4 => some .jp
  | 0x2#4 => some .call
  | 0x3#4 => some .seImm
  | 0x4#4 => some .sneImm
  | 0x5#4 => if f.n = 0x0#4 then some .seReg else none
  | 0x6#4 => some .ldImm
  | 0x7#4 => some .addImm
  | 0x8#4 =>
    match f.n with
    | 0x0#4 => some .ldReg
    | 0x1#4 => some .orReg
    | 0x2#4 => some .andReg
    | 0x3#4 => some .xorReg
    | 0x4#4 => some .addReg
    | 0x5#4 => some .sub
    | 0x6#4 => some .shr
    | 0x7#4 => some .subn
    | 0xE#4 => some .shl
    | _ => none
  | 0x9#4 => if f.n = 0x0#4 then some .sneReg else none
  | 0xA#4 => some .ldI
  | 0xB#4 => some .jpV0
  | 0xC#4 => some .rnd
  | 0xD#4 => some .drw
  | 0xE#4 =>
    match f.nn with
    | 0x9E#8 => some .skp
    | 0xA1#8 => some .sknp
    | _ => none
  | 0xF#4 =>
    match f.nn with
    | 0x07#8 => some .ldVxDt
    | 0x0A#8 => some .ldVxK
    | 0x15#8 => some .ldDtVx
    | 0x18#8 => some .ldStVx
    | 0x1E#8 => some .addI
    | 0x29#8 => some .ldF
    | 0x33#8 => some .bcd
    | 0x55#8 => some .stRegs
    | 0x65#8 => some .ldRegs
    | _ => none
  | _ => none

/-- The instruction of a row with the operands its format takes from the fields (R93, R94). -/
def Mnemonic.build (f : Fields) : Mnemonic → Instr
  | .cls => .cls
  | .ret => .ret
  | .jp => .jp f.nnn
  | .call => .call f.nnn
  | .seImm => .seImm f.x f.nn
  | .sneImm => .sneImm f.x f.nn
  | .seReg => .seReg f.x f.y
  | .ldImm => .ldImm f.x f.nn
  | .addImm => .addImm f.x f.nn
  | .ldReg => .ldReg f.x f.y
  | .orReg => .orReg f.x f.y
  | .andReg => .andReg f.x f.y
  | .xorReg => .xorReg f.x f.y
  | .addReg => .addReg f.x f.y
  | .sub => .sub f.x f.y
  | .shr => .shr f.x f.y
  | .subn => .subn f.x f.y
  | .shl => .shl f.x f.y
  | .sneReg => .sneReg f.x f.y
  | .ldI => .ldI f.nnn
  | .jpV0 => .jpV0 f.nnn
  | .rnd => .rnd f.x f.nn
  | .drw => .drw f.x f.y f.n
  | .skp => .skp f.x
  | .sknp => .sknp f.x
  | .ldVxDt => .ldVxDt f.x
  | .ldVxK => .ldVxK f.x
  | .ldDtVx => .ldDtVx f.x
  | .ldStVx => .ldStVx f.x
  | .addI => .addI f.x
  | .ldF => .ldF f.x
  | .bcd => .bcd f.x
  | .stRegs => .stRegs f.x
  | .ldRegs => .ldRegs f.x

/-- The decoder (R97): total, `none` exactly on the illegal words of R98. -/
def decodeWord (w : Word) : Option Instr :=
  (classify (fieldsOf w)).map (Mnemonic.build (fieldsOf w))

/-- The decoder on a run of bytes: the instruction and the bytes after it (R90: always two bytes). -/
def decodeBytes : List Byte → Except DecodeError (Instr × List Byte)
  | hi :: lo :: rest =>
    match decodeWord (wordOfBytes hi lo) with
    | some i => .ok (i, rest)
    | none => .error (.unrecognized (wordOfBytes hi lo))
  | _ => .error .truncated

/-- The word of an instruction, written from the word column of R96: `OP` in bits 15 to 12, then `X`, `Y`, `N`. -/
def encode : Instr → Word
  | .cls => 0x00E0#16
  | .ret => 0x00EE#16
  | .jp nnn => 0x1#4 ++ nnn
  | .call nnn => 0x2#4 ++ nnn
  | .seImm x nn => 0x3#4 ++ x ++ nn
  | .sneImm x nn => 0x4#4 ++ x ++ nn
  | .seReg x y => 0x5#4 ++ x ++ y ++ 0x0#4
  | .ldImm x nn => 0x6#4 ++ x ++ nn
  | .addImm x nn => 0x7#4 ++ x ++ nn
  | .ldReg x y => 0x8#4 ++ x ++ y ++ 0x0#4
  | .orReg x y => 0x8#4 ++ x ++ y ++ 0x1#4
  | .andReg x y => 0x8#4 ++ x ++ y ++ 0x2#4
  | .xorReg x y => 0x8#4 ++ x ++ y ++ 0x3#4
  | .addReg x y => 0x8#4 ++ x ++ y ++ 0x4#4
  | .sub x y => 0x8#4 ++ x ++ y ++ 0x5#4
  | .shr x y => 0x8#4 ++ x ++ y ++ 0x6#4
  | .subn x y => 0x8#4 ++ x ++ y ++ 0x7#4
  | .shl x y => 0x8#4 ++ x ++ y ++ 0xE#4
  | .sneReg x y => 0x9#4 ++ x ++ y ++ 0x0#4
  | .ldI nnn => 0xA#4 ++ nnn
  | .jpV0 nnn => 0xB#4 ++ nnn
  | .rnd x nn => 0xC#4 ++ x ++ nn
  | .drw x y n => 0xD#4 ++ x ++ y ++ n
  | .skp x => 0xE#4 ++ x ++ 0x9E#8
  | .sknp x => 0xE#4 ++ x ++ 0xA1#8
  | .ldVxDt x => 0xF#4 ++ x ++ 0x07#8
  | .ldVxK x => 0xF#4 ++ x ++ 0x0A#8
  | .ldDtVx x => 0xF#4 ++ x ++ 0x15#8
  | .ldStVx x => 0xF#4 ++ x ++ 0x18#8
  | .addI x => 0xF#4 ++ x ++ 0x1E#8
  | .ldF x => 0xF#4 ++ x ++ 0x29#8
  | .bcd x => 0xF#4 ++ x ++ 0x33#8
  | .stRegs x => 0xF#4 ++ x ++ 0x55#8
  | .ldRegs x => 0xF#4 ++ x ++ 0x65#8

/-- A row of the opcode map of R96: a word `w` is the row's when `w &&& mask = pattern`. -/
structure OpcodeRow where
  mnemonic : Mnemonic
  mask : Word
  pattern : Word
  deriving DecidableEq, Repr

/-- "A word `w` selects the instruction of the first and only row with `w & mask = match`" (R96). -/
def OpcodeRow.accepts (r : OpcodeRow) (w : Word) : Bool := w &&& r.mask == r.pattern

/-- The opcode map, copied row by row from R96. The decoder does not use it: that the two agree is a statement. -/
def opcodeMap : List OpcodeRow :=
  [⟨.cls, 0xFFFF#16, 0x00E0#16⟩,
   ⟨.ret, 0xFFFF#16, 0x00EE#16⟩,
   ⟨.jp, 0xF000#16, 0x1000#16⟩,
   ⟨.call, 0xF000#16, 0x2000#16⟩,
   ⟨.seImm, 0xF000#16, 0x3000#16⟩,
   ⟨.sneImm, 0xF000#16, 0x4000#16⟩,
   ⟨.seReg, 0xF00F#16, 0x5000#16⟩,
   ⟨.ldImm, 0xF000#16, 0x6000#16⟩,
   ⟨.addImm, 0xF000#16, 0x7000#16⟩,
   ⟨.ldReg, 0xF00F#16, 0x8000#16⟩,
   ⟨.orReg, 0xF00F#16, 0x8001#16⟩,
   ⟨.andReg, 0xF00F#16, 0x8002#16⟩,
   ⟨.xorReg, 0xF00F#16, 0x8003#16⟩,
   ⟨.addReg, 0xF00F#16, 0x8004#16⟩,
   ⟨.sub, 0xF00F#16, 0x8005#16⟩,
   ⟨.shr, 0xF00F#16, 0x8006#16⟩,
   ⟨.subn, 0xF00F#16, 0x8007#16⟩] ++
  [⟨.shl, 0xF00F#16, 0x800E#16⟩,
   ⟨.sneReg, 0xF00F#16, 0x9000#16⟩,
   ⟨.ldI, 0xF000#16, 0xA000#16⟩,
   ⟨.jpV0, 0xF000#16, 0xB000#16⟩,
   ⟨.rnd, 0xF000#16, 0xC000#16⟩,
   ⟨.drw, 0xF000#16, 0xD000#16⟩,
   ⟨.skp, 0xF0FF#16, 0xE09E#16⟩,
   ⟨.sknp, 0xF0FF#16, 0xE0A1#16⟩,
   ⟨.ldVxDt, 0xF0FF#16, 0xF007#16⟩,
   ⟨.ldVxK, 0xF0FF#16, 0xF00A#16⟩,
   ⟨.ldDtVx, 0xF0FF#16, 0xF015#16⟩,
   ⟨.ldStVx, 0xF0FF#16, 0xF018#16⟩,
   ⟨.addI, 0xF0FF#16, 0xF01E#16⟩,
   ⟨.ldF, 0xF0FF#16, 0xF029#16⟩,
   ⟨.bcd, 0xF0FF#16, 0xF033#16⟩,
   ⟨.stRegs, 0xF0FF#16, 0xF055#16⟩,
   ⟨.ldRegs, 0xF0FF#16, 0xF065#16⟩]

/-- The operand fields that a line's numbers fill (R101: "the register digit of `Vx` in `X`, of `Vy` in `Y`, and the
number in `N`, `NN` or `NNN`"). -/
def AsmLine.fields (l : AsmLine) : Fields :=
  let field (k : Nat) : Nat := l.operands.getD k 0
  { op := 0
    x := BitVec.ofNat 4 (field 0)
    y := BitVec.ofNat 4 (field 1)
    n := BitVec.ofNat 4 (field 2)
    nn := BitVec.ofNat 8 (field 1)
    nnn := BitVec.ofNat 12 (field 0) }

/-- The assembler on one line (R101): the word, or nothing where a number does not fit. -/
def assemble (l : AsmLine) : Option Word :=
  if l.wellFormed then some (encode (l.mnemonic.build l.fields)) else none

/-- The bytes an item places at consecutive addresses (R102). -/
def assembleItem : AsmItem → Option (List Byte)
  | .instr line => (assemble line).map bytesOfWord
  | .db values => if (AsmItem.db values).wellFormed then some (values.map (BitVec.ofNat 8)) else none

/-- What the decoder reads from an instruction whose bits are `w`, numbered as spec/opcode_table.json numbers them:
the first word is bits 15 to 0, laid out high byte first (R67). Bits at `nbits` and above count as 0. -/
def decodeTableWord (nbits w : Nat) : Option Instr :=
  match decodeBytes (bytesOfWord (BitVec.ofNat 16 (w % 2 ^ nbits))) with
  | .ok (i, _) => some i
  | .error _ => none

end Sys2Proof
end

