-- ==== Sys2Proof/Machine/Flags.lean ====
section
/-! DEFINITION. Every flag computation of the spec (spec/10_state.md R22, R23; spec/42_load_alu.md R171). A flag is
the byte 0 or 1 in VF. DRW's collision flag is gathered while drawing (Machine/Display.lean). -/

namespace Sys2Proof.Machine

/-- The 8-bit value a flag is written as (R22). -/
def flagByte (b : Bool) : Byte := if b then 1 else 0

/-- ADD_REG: the exact sum exceeds 255 (R166). -/
def carry (a b : Byte) : Bool := decide (a.toNat + b.toNat > 255)

/-- SUB and SUBN: no borrow in `a - b`, unsigned and including equality (R167, R169). -/
def noBorrow (a b : Byte) : Bool := decide (a.toNat ≥ b.toNat)

/-- SHR: the bit shifted out, bit 0 of the source (R168). -/
def lowBit (b : Byte) : Bool := b.getLsbD 0

/-- SHL: the bit shifted out, bit 7 of the source (R170). -/
def highBit (b : Byte) : Bool := b.getLsbD 7

/-- ADD_I: the exact sum passes 0x0FFF (R191). -/
def indexOverflow (index : Word) : Bool := decide (index.toNat + Config.indexStep > Config.indexMask)

end Sys2Proof.Machine
end

