-- ==== Sys2Proof/Machine/Params.lean ====
section
/-! DEFINITION. The two parameters a model takes as arguments (spec/00_scope.md R6), their defaults, and the reset
contents of memory. -/

namespace Sys2Proof.Machine

/-- `FONT_TABLE`, the default of R43 (from general knowledge, decision D14; log 3): glyph `d` is the five bytes from
`5 * d`, top row first. -/
def fontTable : List Byte :=
  [0xF0#8, 0x90#8, 0x90#8, 0x90#8, 0xF0#8] ++ [0x20#8, 0x60#8, 0x20#8, 0x20#8, 0x70#8] ++
  [0xF0#8, 0x10#8, 0xF0#8, 0x80#8, 0xF0#8] ++ [0xF0#8, 0x10#8, 0xF0#8, 0x10#8, 0xF0#8] ++
  [0x90#8, 0x90#8, 0xF0#8, 0x10#8, 0x10#8] ++ [0xF0#8, 0x80#8, 0xF0#8, 0x10#8, 0xF0#8] ++
  [0xF0#8, 0x80#8, 0xF0#8, 0x90#8, 0xF0#8] ++ [0xF0#8, 0x10#8, 0x20#8, 0x40#8, 0x40#8] ++
  [0xF0#8, 0x90#8, 0xF0#8, 0x90#8, 0xF0#8] ++ [0xF0#8, 0x90#8, 0xF0#8, 0x10#8, 0xF0#8] ++
  [0xF0#8, 0x90#8, 0xF0#8, 0x90#8, 0x90#8] ++ [0xE0#8, 0x90#8, 0xE0#8, 0x90#8, 0xE0#8] ++
  [0xF0#8, 0x80#8, 0x80#8, 0x80#8, 0xF0#8] ++ [0xE0#8, 0x90#8, 0x90#8, 0x90#8, 0xE0#8] ++
  [0xF0#8, 0x80#8, 0xF0#8, 0x80#8, 0xF0#8] ++ [0xF0#8, 0x80#8, 0xF0#8, 0x80#8, 0x80#8]

/-- `KEY_PRIORITY`, a choice from the pressed keys given in rising order, the list being `least :: more`. The default
of R225 is the least one (decision D6; log 2). -/
def keyPriority (least : KeyIx) (_more : List KeyIx) : KeyIx := least

/-- The parameters of R6, the argument of the machine the host drives (Machine/Transactions.lean): any 80 bytes, and any
choice of one of the pressed keys. `step`, `exec` and `State.reset` are the machine at `Params.default` (log 2, log 3). -/
structure Params where
  /-- `FONT_TABLE`, the bytes placed at addresses 0 to 79 at reset (R40) -/
  font : List Byte
  /-- FONT_BYTES of them (R5) -/
  fontBytes : font.length = 80
  /-- `KEY_PRIORITY`, on the pressed keys in rising order, `least :: more` (R225) -/
  keyPriority : KeyIx → List KeyIx → KeyIx
  /-- it chooses one of them -/
  keyIsPressed : ∀ least more, keyPriority least more ∈ least :: more

/-- Both parameters at the spec's defaults (R6; decisions D6, D14). -/
def Params.default : Params where
  font := fontTable
  fontBytes := rfl
  keyPriority := Sys2Proof.Machine.keyPriority
  keyIsPressed _ _ := List.mem_cons_self

/-- The byte an address holds after reset at the default FONT_TABLE, and so what an address that memory does not list
reads as (R40): the font table at 0 to 79, zero at 80 to 4095. -/
def initialByte (a : Nat) : Byte := fontTable.getD a 0

end Sys2Proof.Machine
end

