-- ==== Sys2Proof/Machine/State.lean ====
section
/-! DEFINITION. The state of the core: every row of spec/10_state.md R20, and one counter of the model's own. -/

namespace Sys2Proof.Machine

/-- The four fatal errors (R240); no others exist. -/
inductive Cause where
  /-- (a) a byte access at 4096 or above (R242): the fetch, BCD, ST_REGS, LD_REGS, DRW -/
  | outOfBounds
  /-- (b) CALL with a full stack (R243) -/
  | stackOverflow
  /-- (c) RET with an empty stack (R244) -/
  | stackUnderflow
  /-- (d) a word of no row of the opcode map (R245) -/
  | unrecognizedInstruction
  deriving DecidableEq, Repr

/-- The fault record of R241. -/
structure FaultRecord where
  /-- which of the four -/
  cause : Cause
  /-- `pc0`, the address of the faulting instruction -/
  fpc : Word
  /-- the instruction word; `none` exactly for the fetch's OutOfBounds -/
  word : Option Word
  /-- the offending address of OutOfBounds, a natural number; otherwise absent -/
  addr : Option Nat
  deriving DecidableEq, Repr

/-- Memory, as the list of the bytes that differ from the reset contents, addresses strictly rising. -/
abbrev Memory := List Host.Cell

/-- The display buffer, rows from the top, cells from the left (R34); `true` is on. -/
abbrev Display := Vector (Vector Bool 64) 32

/-- The architectural state of R20. -/
structure State where
  /-- `x[0..15]`, V0 to VF (R21) -/
  regs : Vector Byte 16
  /-- `I` (R24) -/
  index : Word
  /-- `pc` (R26) -/
  pc : Word
  /-- `sp`, the number of return addresses on the stack (R28) -/
  sp : Byte
  /-- `stack[0..15]` (R28) -/
  stack : Vector Word 16
  /-- `DT` (R31) -/
  dt : Byte
  /-- `ST` (R32) -/
  st : Byte
  /-- `key[0..15]`, `true` when pressed (R33) -/
  keys : Vector Bool 16
  /-- `disp` (R34) -/
  disp : Display
  /-- `mem` (R36) -/
  mem : Memory
  /-- `fault` (R37); the core is halted while it is not `none` (R127) -/
  fault : Option FaultRecord
  /-- NOT OF THE SPEC, the model's own: how many random bytes RND has taken so far. DESIGN CHOICE, log 1. -/
  draws : Nat
  deriving DecidableEq, Repr

/-- Where a step has no next state although an instruction was decoded. The spec's four fatal errors are NOT among
these: taking one is a next state that holds the record (R246; log 5). -/
inductive Fault where
  /-- Raised by CALL and RET when `sp` is above 16: the cell of the stack they would use does not exist and R28 calls
  such values unreachable. SAFE: no state that meets the invariant raises it. Log 6. -/
  | stackCellAbsent (sp : Byte)
  deriving DecidableEq, Repr

/-- Why an instruction has no meaning. -/
inductive Refusal where
  /-- Raised by an arm of `exec` whose instruction has no meaning yet. SAFE. No arm raises it: all 34 have one. -/
  | notModelled (mnemonic : String)
  deriving DecidableEq, Repr

/-- The machine right after RESET (R290, R291): `pc = 0x200` and memory at its reset contents are the source's (R40);
every other value is the spec's R41, by its decision D8 (log 4); `draws` is the model's (log 1). -/
def State.reset : State where
  regs := Vector.replicate 16 0
  index := 0
  pc := Config.pcReset
  sp := 0
  stack := Vector.replicate 16 0
  dt := 0
  st := 0
  keys := Vector.replicate 16 false
  disp := Vector.replicate 32 (Vector.replicate 64 false)
  mem := []
  fault := none
  draws := 0

end Sys2Proof.Machine
end

