-- ==== Sys2Proof/Machine/Ops.lean ====
section
/-! DEFINITION. The named operations over memory, registers, the program counter and the call stack, and taking a
fault. -/

namespace Sys2Proof.Machine

/-- The outcomes of a step of this machine. -/
abbrev StepOutcome := Host.Outcome State Fault Refusal

/-! ### Memory (spec/20_memory.md) -/

/-- The byte at an address: the listed one, else the reset contents (R40). The bounds check is `Memory.read`'s. -/
def Memory.peek : Memory → Nat → Byte
  | [], a => initialByte a
  | (k, v) :: m, a => if a = k then v else Memory.peek m a

/-- Put a byte at an address, keeping the list in its canonical form. The bounds check is the callers'. -/
def Memory.poke : Memory → Nat → Byte → Memory
  | [], a, v => if v = initialByte a then [] else [(a, v)]
  | (k, u) :: m, a, v =>
    if a < k then if v = initialByte a then (k, u) :: m else (a, v) :: (k, u) :: m
    else if a = k then if v = initialByte a then m else (a, v) :: m
    else (k, u) :: Memory.poke m a v

/-- The canonical form from address `lo` on. -/
def Memory.wfFrom : Nat → Memory → Bool
  | _, [] => true
  | lo, (k, v) :: m =>
    decide (lo ≤ k) && decide (k < Config.memSize) && decide (v ≠ initialByte k) && Memory.wfFrom (k + 1) m

/-- The canonical form: addresses strictly rising and below 4096, no byte equal to the reset contents. -/
def Memory.wf (m : Memory) : Bool := Memory.wfFrom 0 m

/-- The `n` bytes from address `a` on. -/
def Memory.peekMany (m : Memory) (a : Nat) : Nat → List Byte
  | 0 => []
  | n + 1 => m.peek a :: Memory.peekMany m (a + 1) n

/-- Put bytes at consecutive addresses from `a` on. -/
def Memory.pokeMany : Memory → Nat → List Byte → Memory
  | m, _, [] => m
  | m, a, b :: bs => Memory.pokeMany (m.poke a b) (a + 1) bs

/-- `MemRead(addr, 1)` (R61); the error is the offending address. -/
def Memory.read (m : Memory) (a : Nat) : Except Nat Byte :=
  if a < Config.memSize then .ok (m.peek a) else .error a

/-- `MemWrite(addr, 1, v)` (R62). -/
def Memory.write (m : Memory) (a : Nat) (v : Byte) : Except Nat Memory :=
  if a < Config.memSize then .ok (m.poke a v) else .error a

/-- `CopyIn(start, bytes)` (R64): the test is on the sum, before any byte is written. -/
def Memory.copyIn (m : Memory) (start : Nat) (bytes : List Byte) : Option Memory :=
  if start + bytes.length > Config.memSize then none else some (m.pokeMany start bytes)

/-- The address that an instruction touching `count` addresses from `base` on reports as out of bounds (R194):
`max(base, 4096)`, exactly when it touches any and the last is past the end. -/
def firstOutOfBounds (base count : Nat) : Option Nat :=
  if count ≥ 1 ∧ base + count - 1 ≥ Config.memSize then some (max base Config.memSize) else none

/-- The reads of one instruction, all checked before any is used (R126, R194). -/
def Memory.readRange (m : Memory) (base count : Nat) : Except Nat (List Byte) :=
  match firstOutOfBounds base count with
  | some a => .error a
  | none => .ok (m.peekMany base count)

/-- The writes of one instruction, all checked before any is done (R126, R194). -/
def Memory.writeRange (m : Memory) (base : Nat) (bytes : List Byte) : Except Nat Memory :=
  match firstOutOfBounds base bytes.length with
  | some a => .error a
  | none => .ok (m.pokeMany base bytes)

/-! ### Registers (spec/10_state.md R21 to R27) -/

/-- `x[r]`. -/
def State.reg (s : State) (r : RegIx) : Byte := s.regs[r.toNat]'r.isLt

/-- `x[r] <- v`. -/
def State.setReg (s : State) (r : RegIx) (v : Byte) : State := { s with regs := s.regs.set r.toNat v r.isLt }

/-- The result to `Vx` first and the flag to VF last, so that VF holds the flag when `X` = 15 (R123, decision D3). -/
def State.setResultAndFlag (s : State) (x : RegIx) (result : Byte) (flag : Bool) : State :=
  (s.setReg x result).setReg vF (flagByte flag)

/-- V0 to Vx, in that order (R195). -/
def State.regsUpTo (s : State) (x : RegIx) : List Byte := s.regs.toList.take (x.toNat + 1)

/-- Bytes into consecutive registers from number `k` on (R196). -/
def State.setRegsFrom : State → Nat → List Byte → State
  | s, _, [] => s
  | s, k, b :: bs => State.setRegsFrom (s.setReg (BitVec.ofNat 4 k) b) (k + 1) bs

/-- `I <- v`. -/
def State.setIndex (s : State) (v : Word) : State := { s with index := v }

/-- `mem <- m`. -/
def State.setMem (s : State) (m : Memory) : State := { s with mem := m }

/-- `pc <- target`. -/
def State.jump (s : State) (target : Word) : State := { s with pc := target }

/-- Step 2 of the cycle: `pc <- trunc_16(pc + 2)`, before the handler (R122). A taken skip does it once more. -/
def State.advance (s : State) : State := { s with pc := s.pc + 2 }

/-- The advance of the cycle, and a further `pc + 2` where the condition of a skip holds (R143, R148). -/
def State.skipIf (s : State) (c : Bool) : State := if c then s.advance.advance else s.advance

/-! ### The call stack (R28 to R30) -/

/-- Why a push or a pop has no result. -/
inductive StackError where
  /-- `sp = 16` at a push (R29) -/
  | full
  /-- `sp = 0` at a pop (R30) -/
  | empty
  /-- `sp > 16`: no such cell exists; unreachable (R28; log 6) -/
  | noCell
  deriving DecidableEq, Repr

/-- `Push(v)` (R29). -/
def State.push (s : State) (v : Word) : Except StackError State :=
  if s.sp.toNat = Config.stackDepth then .error .full
  else if h : s.sp.toNat < Config.stackDepth then
    .ok { s with stack := s.stack.set s.sp.toNat v h, sp := s.sp + 1 }
  else .error .noCell

/-- `Pop()` (R30): the cell keeps its value. -/
def State.pop (s : State) : Except StackError (Word × State) :=
  if s.sp.toNat = 0 then .error .empty
  else if h : s.sp.toNat - 1 < Config.stackDepth then
    .ok (s.stack[s.sp.toNat - 1], { s with sp := s.sp - 1 })
  else .error .noCell

/-! ### Taking a fault (spec/60_exceptions.md R240 to R248) -/

/-- `raise E(info)` (R246, R126), on the state the cycle began in: the record `(cause, pc0, word, addr)` is written
and nothing else changes. There is no handler, no saved register, and no return but RESET (R247). -/
def State.raise (s : State) (cause : Cause) (word : Option Word) (addr : Option Nat) : State :=
  { s with fault := some ⟨cause, s.pc, word, addr⟩ }

/-- OutOfBounds of an instruction's own access: its word and the offending address (R242 iii). -/
def State.raiseOutOfBounds (s : State) (i : Instr) (addr : Nat) : State :=
  s.raise .outOfBounds (some (encode i)) (some addr)

/-- The fetch's OutOfBounds: there is no word (R242 i and ii, C7). -/
def State.raiseFetch (s : State) (addr : Nat) : State := s.raise .outOfBounds none (some addr)

/-- UnrecognizedInstruction with the illegal word (R245). -/
def State.raiseUnrecognized (s : State) (word : Word) : State := s.raise .unrecognizedInstruction (some word) none

/-- StackOverflow and StackUnderflow (R243, R244); an absent cell has no effect in the spec and stops (log 6). -/
def State.raiseStack (s : State) (i : Instr) : StackError → StepOutcome
  | .full => .next (s.raise .stackOverflow (some (encode i)) none)
  | .empty => .next (s.raise .stackUnderflow (some (encode i)) none)
  | .noCell => .fault (.stackCellAbsent s.sp)

/-- The numeric code of a cause (R240, decision D18). -/
def Cause.code : Cause → Nat
  | .outOfBounds => 1
  | .stackOverflow => 2
  | .stackUnderflow => 3
  | .unrecognizedInstruction => 4

/-- `fault` is not `none`: the core is halted (R127, R247). -/
def State.halted (s : State) : Bool := s.fault.isSome

/-- A cycle of a halted core changes no state (R120, R127). -/
def State.haltedCycle (s : State) : StepOutcome := .next s

/-! ### Fetch (spec/40_cycle.md R121) -/

/-- The word at `pc`: two reads, high byte first; `pc + 1` is a natural number (R63, R67, R121). -/
def State.fetch (s : State) : Except Nat Word :=
  match s.mem.read s.pc.toNat, s.mem.read (s.pc.toNat + 1) with
  | .error a, _ => .error a
  | .ok _, .error a => .error a
  | .ok hi, .ok lo => .ok (wordOfBytes hi lo)

end Sys2Proof.Machine
end

