-- ==== Sys2Proof/Machine/Operands.lean ====
section
/-! DEFINITION. Every operand form of the spec: immediates, key and glyph numbers, effective addresses, digits and
sprite bits. Plain register operands are `State.reg`. -/

namespace Sys2Proof.Machine

/-- `NNN` as it is written into `pc` or `I`: the upper four bits zero (R93). -/
def zext16 (nnn : Addr) : Word := nnn.setWidth 16

/-- The target of jump-with-offset, `NNN + V0`, not masked (R147, decision D4). -/
def offsetTarget (nnn : Addr) (offset : Byte) : Word := zext16 nnn + offset.setWidth 16

/-- The natural number an address in `I` is (R194): `I + k` is formed on it and never reduced (R63). -/
def State.base (s : State) : Nat := s.index.toNat

/-- How many registers `V0..=Vx` is (R195, R196). -/
def regCount (x : RegIx) : Nat := x.toNat + 1

/-- The key that `Vx` names: its low nibble (R220). -/
def keyIndex (a : Byte) : KeyIx := (a &&& 0x0F).setWidth 4

/-- The state of a key (R33). -/
def State.key (s : State) (k : KeyIx) : Bool := s.keys[k.toNat]'k.isLt

/-- The keys that are pressed, in rising order (R225). -/
def State.pressed (s : State) : List KeyIx :=
  [0#4, 1#4, 2#4, 3#4, 4#4, 5#4, 6#4, 7#4, 8#4, 9#4, 10#4, 11#4, 12#4, 13#4, 14#4, 15#4].filter s.key

/-- The address of the glyph of the low nibble: 0, 5, ..., 75 (R192). -/
def glyphAddress (a : Byte) : Word := BitVec.ofNat 16 ((a &&& 0x0F).toNat * 5)

/-- add-to-index: the sum, masked to 12 bits only where it passes 0x0FFF (R191). -/
def indexPlusStep (index : Word) : Word :=
  if indexOverflow index then BitVec.ofNat 16 ((index.toNat + Config.indexStep) &&& Config.indexMask)
  else BitVec.ofNat 16 (index.toNat + Config.indexStep)

/-- Hundreds, tens and ones of a byte, the digits' values (R193). -/
def bcdDigits (a : Byte) : List Byte :=
  [BitVec.ofNat 8 (a.toNat / 100), BitVec.ofNat 8 (a.toNat / 10 % 10), BitVec.ofNat 8 (a.toNat % 10)]

/-- Bit `i` of a sprite row, counted from the most significant (R211). -/
def spriteBit (row : Byte) (i : Nat) : Bool := row.getLsbD (7 - i)

/-- A column, reduced modulo 64 (R211). -/
def wrapCol (n : Nat) : Fin 64 := ⟨n % 64, Nat.mod_lt n (by decide)⟩

/-- A row, reduced modulo 32 (R211). -/
def wrapRow (n : Nat) : Fin 32 := ⟨n % 32, Nat.mod_lt n (by decide)⟩

end Sys2Proof.Machine
end

