-- ==== Sys2Proof/Machine/Alu.lean ====
section
/-! DEFINITION. The register load, arithmetic, logic, shift and random instructions (spec/42_load_alu.md). Operands
are read from the state the cycle began in (R123); arithmetic on bytes wraps modulo 256 (R171). -/

namespace Sys2Proof.Machine

/-- LD_IMM (R160). -/
def execLdImm (x : RegIx) (nn : Byte) (s : State) : StepOutcome := .next (s.advance.setReg x nn)

/-- ADD_IMM (R161): wraps, no flag. -/
def execAddImm (x : RegIx) (nn : Byte) (s : State) : StepOutcome := .next (s.advance.setReg x (s.reg x + nn))

/-- LD_REG (R162). -/
def execLdReg (x y : RegIx) (s : State) : StepOutcome := .next (s.advance.setReg x (s.reg y))

/-- OR (R163): VF is not reset. -/
def execOrReg (x y : RegIx) (s : State) : StepOutcome := .next (s.advance.setReg x (s.reg x ||| s.reg y))

/-- AND (R164): VF is not reset. -/
def execAndReg (x y : RegIx) (s : State) : StepOutcome := .next (s.advance.setReg x (s.reg x &&& s.reg y))

/-- XOR (R165): VF is not reset. -/
def execXorReg (x y : RegIx) (s : State) : StepOutcome := .next (s.advance.setReg x (s.reg x ^^^ s.reg y))

/-- ADD_REG (R166). -/
def execAddReg (x y : RegIx) (s : State) : StepOutcome :=
  .next (s.advance.setResultAndFlag x (s.reg x + s.reg y) (carry (s.reg x) (s.reg y)))

/-- SUB, x - y (R167). -/
def execSub (x y : RegIx) (s : State) : StepOutcome :=
  .next (s.advance.setResultAndFlag x (s.reg x - s.reg y) (noBorrow (s.reg x) (s.reg y)))

/-- SHR (R168): the source is `Vy`. -/
def execShr (x y : RegIx) (s : State) : StepOutcome :=
  .next (s.advance.setResultAndFlag x (s.reg y >>> 1) (lowBit (s.reg y)))

/-- SUBN, y - x (R169). -/
def execSubn (x y : RegIx) (s : State) : StepOutcome :=
  .next (s.advance.setResultAndFlag x (s.reg y - s.reg x) (noBorrow (s.reg y) (s.reg x)))

/-- SHL (R170): the source is `Vy`. -/
def execShl (x y : RegIx) (s : State) : StepOutcome :=
  .next (s.advance.setResultAndFlag x (s.reg y <<< 1) (highBit (s.reg y)))

/-- The effect of RND with a given random byte (R172). -/
def State.randomize (s : State) (x : RegIx) (nn rand : Byte) : State := s.advance.setReg x (rand &&& nn)

/-- One more random byte has been taken (R129, R172: a fresh one each time; log 1). -/
def State.countDraw (s : State) : State := { s with draws := s.draws + 1 }

/-- RND (R172), on the next byte of the free value. -/
def execRnd (x : RegIx) (nn : Byte) (s : State) : StepOutcome :=
  .next (s.countDraw.randomize x nn (Config.randByte s.draws))

end Sys2Proof.Machine
end

