-- ==== Sys2Proof/Machine/Display.lean ====
section
/-! DEFINITION. The display instructions (spec/44_display.md) and the reading of cells. -/

namespace Sys2Proof.Machine

/-- `disp[xx, yy]` (R34). -/
def Display.cell (d : Display) (xx : Fin 64) (yy : Fin 32) : Bool := d[yy][xx]

/-- `disp[xx, yy] <- disp[xx, yy] ^ 1`. -/
def Display.toggle (d : Display) (xx : Fin 64) (yy : Fin 32) : Display :=
  d.set yy (d[yy].set xx (!d[yy][xx]))

/-- Every cell off (R210). -/
def Display.clear : Display := Vector.replicate 32 (Vector.replicate 64 false)

/-- The 2048 cells in row-major order, position `yy * 64 + xx` (R35). -/
def Display.cells (d : Display) : List Bool := d.toList.flatMap fun row => row.toList

/-- A drawing in progress: the display and whether a cell went from on to off so far (R211). -/
structure Canvas where
  disp : Display
  collision : Bool
  deriving DecidableEq, Repr

/-- One set sprite bit (R211): toggle its cell, and note a cell that goes from on to off. -/
def Canvas.plot (c : Canvas) (xx : Fin 64) (yy : Fin 32) : Canvas :=
  ⟨c.disp.toggle xx yy, c.collision || c.disp.cell xx yy⟩

/-- The inner loop of R211, over the given bit numbers of one sprite row. -/
def Canvas.drawBits (vx : Nat) (yy : Fin 32) (row : Byte) : List Nat → Canvas → Canvas
  | [], c => c
  | i :: is, c => Canvas.drawBits vx yy row is (if spriteBit row i then c.plot (wrapCol (vx + i)) yy else c)

/-- The outer loop of R211: the rows from `y` on, each with its bits 0 to 7. -/
def Canvas.drawRows (vx : Nat) : Nat → List Byte → Canvas → Canvas
  | _, [], c => c
  | y, row :: rows, c => Canvas.drawRows vx (y + 1) rows (c.drawBits vx (wrapRow y) row [0, 1, 2, 3, 4, 5, 6, 7])

/-- The display and the collision flag after a draw. -/
def State.setCanvas (s : State) (c : Canvas) : State := { s with disp := c.disp }.setReg vF (flagByte c.collision)

/-- CLS (R210). -/
def execCls (s : State) : StepOutcome := .next { s.advance with disp := Display.clear }

/-- DRW (R211): the rows are read and checked before any cell changes; VF is written last. -/
def execDrw (x y : RegIx) (n : BitVec 4) (s : State) : StepOutcome :=
  match s.mem.readRange s.base n.toNat with
  | .ok rows => .next (s.advance.setCanvas (Canvas.drawRows (s.reg x).toNat (s.reg y).toNat rows ⟨s.disp, false⟩))
  | .error a => .next (s.raiseOutOfBounds (.drw x y n) a)

end Sys2Proof.Machine
end

