-- ==== Sys2Proof/Machine/Flow.lean ====
section
/-! DEFINITION. The control-flow instructions (spec/41_flow.md). Each meaning is a whole cycle after the fetch: it
advances `pc` (R122) and then does what its rule says; a fault is raised on the state the cycle began in (R126). -/

namespace Sys2Proof.Machine

/-- RET (R140). -/
def execRet (s : State) : StepOutcome :=
  match s.advance.pop with
  | .ok (target, t) => .next (t.jump target)
  | .error e => s.raiseStack .ret e

/-- JP (R141). -/
def execJp (nnn : Addr) (s : State) : StepOutcome := .next (s.jump (zext16 nnn))

/-- CALL (R142): the pushed value is the advanced `pc`. -/
def execCall (nnn : Addr) (s : State) : StepOutcome :=
  match s.advance.push s.advance.pc with
  | .ok t => .next (t.jump (zext16 nnn))
  | .error e => s.raiseStack (.call nnn) e

/-- SE_IMM (R143). -/
def execSeImm (x : RegIx) (nn : Byte) (s : State) : StepOutcome := .next (s.skipIf (s.reg x == nn))

/-- SNE_IMM (R144). -/
def execSneImm (x : RegIx) (nn : Byte) (s : State) : StepOutcome := .next (s.skipIf (s.reg x != nn))

/-- SE_REG (R145). -/
def execSeReg (x y : RegIx) (s : State) : StepOutcome := .next (s.skipIf (s.reg x == s.reg y))

/-- SNE_REG (R146). -/
def execSneReg (x y : RegIx) (s : State) : StepOutcome := .next (s.skipIf (s.reg x != s.reg y))

/-- JP_V0 (R147): the offset is V0 whatever bits 11 to 8 of the word name (R100). -/
def execJpV0 (nnn : Addr) (s : State) : StepOutcome := .next (s.jump (offsetTarget nnn (s.reg v0)))

end Sys2Proof.Machine
end

