-- ==== Sys2Proof/Machine/Index.lean ====
section
/-! DEFINITION. The index-register and memory instructions (spec/43_index_memory.md). `I` is read at the start of the
instruction and kept by BCD, ST_REGS and LD_REGS; every check comes before the first write (R126). -/

namespace Sys2Proof.Machine

/-- LD_I (R190). -/
def execLdI (nnn : Addr) (s : State) : StepOutcome := .next (s.advance.setIndex (zext16 nnn))

/-- ADD_I (R191, R300): `Vx` is not read; VF is set on overflow and otherwise kept (decision D5). -/
def execAddI (_x : RegIx) (s : State) : StepOutcome :=
  let t := s.advance.setIndex (indexPlusStep s.index)
  .next (if indexOverflow s.index then t.setReg vF (flagByte true) else t)

/-- LD_F (R192). -/
def execLdF (x : RegIx) (s : State) : StepOutcome := .next (s.advance.setIndex (glyphAddress (s.reg x)))

/-- BCD (R193). -/
def execBcd (x : RegIx) (s : State) : StepOutcome :=
  match s.mem.writeRange s.base (bcdDigits (s.reg x)) with
  | .ok m => .next (s.advance.setMem m)
  | .error a => .next (s.raiseOutOfBounds (.bcd x) a)

/-- ST_REGS (R195). -/
def execStRegs (x : RegIx) (s : State) : StepOutcome :=
  match s.mem.writeRange s.base (s.regsUpTo x) with
  | .ok m => .next (s.advance.setMem m)
  | .error a => .next (s.raiseOutOfBounds (.stRegs x) a)

/-- LD_REGS (R196). -/
def execLdRegs (x : RegIx) (s : State) : StepOutcome :=
  match s.mem.readRange s.base (regCount x) with
  | .ok bytes => .next (s.advance.setRegsFrom 0 bytes)
  | .error a => .next (s.raiseOutOfBounds (.ldRegs x) a)

end Sys2Proof.Machine
end

