-- ==== Sys2Proof/Machine/Keys.lean ====
section
/-! DEFINITION. The keypad and timer instructions (spec/45_keys_timers.md). -/

namespace Sys2Proof.Machine

/-- `DT <- v` (R31). -/
def State.setDelay (s : State) (v : Byte) : State := { s with dt := v }

/-- `ST <- v` (R32). -/
def State.setSound (s : State) (v : Byte) : State := { s with st := v }

/-- SKP (R220). -/
def execSkp (x : RegIx) (s : State) : StepOutcome := .next (s.skipIf (s.key (keyIndex (s.reg x))))

/-- SKNP (R221). -/
def execSknp (x : RegIx) (s : State) : StepOutcome := .next (s.skipIf (!s.key (keyIndex (s.reg x))))

/-- LD_VX_DT (R222). -/
def execLdVxDt (x : RegIx) (s : State) : StepOutcome := .next (s.advance.setReg x s.dt)

/-- The effect of LD_VX_K under a given choice among the pressed keys (R225): with no key pressed the advance is taken
back, so the instruction runs again next cycle. -/
def State.getKey (s : State) (choose : KeyIx → List KeyIx → KeyIx) (x : RegIx) : State :=
  match s.pressed with
  | [] => s.advance.jump (s.advance.pc - 2)
  | least :: more => s.advance.setReg x ((choose least more).setWidth 8)

/-- LD_VX_K (R225), under the default KEY_PRIORITY (decision D6; log 2). -/
def execLdVxK (x : RegIx) (s : State) : StepOutcome := .next (s.getKey keyPriority x)

/-- LD_DT_VX (R223). -/
def execLdDtVx (x : RegIx) (s : State) : StepOutcome := .next (s.advance.setDelay (s.reg x))

/-- LD_ST_VX (R224). -/
def execLdStVx (x : RegIx) (s : State) : StepOutcome := .next (s.advance.setSound (s.reg x))

end Sys2Proof.Machine
end

