-- ==== Sys2Proof/Machine/Step.lean ====
section
/-! DEFINITION. One cycle (spec/40_cycle.md R120): halted check, fetch, decode, dispatch. The advance of `pc` (step 2)
stands in the meanings, so that a fault finds `pc0` (R126). -/

namespace Sys2Proof.Machine

/-- One CYCLE. Its random byte, used by RND alone (R129), is the next of the free value `Config.randByte`. -/
def step (s : State) : Host.Outcome State Fault Refusal :=
  if s.halted then s.haltedCycle
  else
    match s.fetch with
    | .error a => .next (s.raiseFetch a)
    | .ok w =>
      match decodeWord w with
      | none => .next (s.raiseUnrecognized w)
      | some i => exec i s

/-- `s` with the instruction of bits `w` where `step` fetches next: its two bytes at `pc`, high byte first. The fetch
also needs a core that is not halted and a `pc` of at most 4094 (R121), so a halt is cleared and a `pc` beyond is
put at 0x200; both hold already at reset. It stands for the host's LOAD (R293; log 9). -/
def State.withFetchWord (s : State) (nbits w : Nat) : State :=
  let pc : Word := if s.pc.toNat ≤ 4094 then s.pc else Config.pcReset
  { s with
    mem := s.mem.pokeMany pc.toNat (bytesOfWord (BitVec.ofNat 16 (w % 2 ^ nbits)))
    pc := pc
    fault := none }

end Sys2Proof.Machine
end

