-- ==== Sys2Proof/Machine/Transactions.lean ====
section
/-! DEFINITION. The host's transactions on the core (spec/60_exceptions.md R258 to R265, spec/70_reset_and_hazards.md
R290). Each is one atomic change of the state and one answer; they fall only between cycles (R14). The parameters of
R6 are arguments of every function here. -/

namespace Sys2Proof.Machine

/-- Which timer TIMER_GET and TIMER_SET mean (R263). -/
inductive TimerName where
  | delay
  | sound
  deriving DecidableEq, Repr

/-- The transactions of R265. -/
inductive Transaction where
  /-- RESET (R290) -/
  | reset
  /-- LOAD(start, bytes) (R260) -/
  | load (start : Nat) (bytes : List Byte)
  /-- CYCLE(rand) (R259) -/
  | cycle (rand : Byte)
  /-- KEY_WRITE(k, b) (R261) -/
  | keyWrite (k : KeyIx) (b : Bool)
  /-- TICK (R262) -/
  | tick
  /-- TIMER_GET(which) (R263) -/
  | timerGet (which : TimerName)
  /-- TIMER_SET(which, v) (R263) -/
  | timerSet (which : TimerName) (v : Byte)
  /-- DISPLAY_READ (R264) -/
  | displayRead
  /-- SOUND_ACTIVE (R264) -/
  | soundActive
  /-- FAULT_READ (R264) -/
  | faultRead
  deriving DecidableEq, Repr

/-- What a transaction answers the host. -/
inductive Reply where
  /-- nothing to report -/
  | done
  /-- the LOAD does not fit (R260) -/
  | outOfBounds
  /-- the value of a timer -/
  | timer (v : Byte)
  /-- the cells in row-major order -/
  | cells (c : List Bool)
  /-- whether the sound is active -/
  | active (b : Bool)
  /-- the fault record -/
  | record (f : Option FaultRecord)
  deriving DecidableEq, Repr

/-- A transaction that is over: the state after it and the answer. -/
structure Served where
  state : State
  reply : Reply
  deriving DecidableEq, Repr

/-- `sound_active = (ST != 0)` (R32). -/
def State.soundIsActive (s : State) : Bool := s.st != 0

/-- A timer's decrement, which holds at zero (R262, decision D12). -/
def decrement (t : Byte) : Byte := if t.toNat > 0 then t - 1 else t

/-- Both timers, in the one transaction (R262). -/
def State.tick (s : State) : State := { s with dt := decrement s.dt, st := decrement s.st }

/-- `key[k] <- b` (R261). -/
def State.setKey (s : State) (k : KeyIx) (b : Bool) : State := { s with keys := s.keys.set k.toNat b k.isLt }

/-- The reset state of the machine with given parameters: FONT_TABLE at addresses 0 to 79 (R40). -/
def State.resetFor (p : Params) : State := State.reset.setMem (State.reset.mem.pokeMany 0 p.font)

/-- RESET (R290, R291): every piece of the spec's state at its reset value. The model's count of random bytes goes
on, so that bytes drawn after a reset are not those drawn before it (log 1). -/
def State.resetAgain (p : Params) (s : State) : State := { State.resetFor p with draws := s.draws }

/-- A change that only a running core takes: a halted core ignores it (R247, decision D22). -/
def State.unlessHalted (s : State) (t : State) : State := if s.halted then s else t

/-- One instruction with a given random byte, which RND alone uses (R129), and given parameters, of which LD_VX_K alone
uses one (R225). -/
def execWith (p : Params) (rand : Byte) (i : Instr) (s : State) : StepOutcome :=
  match i with
  | .rnd x nn => .next (s.countDraw.randomize x nn rand)
  | .ldVxK x => .next (s.getKey p.keyPriority x)
  | i => exec i s

/-- CYCLE(rand) (R120, R259): `step` with the random byte and the parameters given. -/
def cycleWith (p : Params) (rand : Byte) (s : State) : StepOutcome :=
  if s.halted then s.haltedCycle
  else
    match s.fetch with
    | .error a => .next (s.raiseFetch a)
    | .ok w =>
      match decodeWord w with
      | none => .next (s.raiseUnrecognized w)
      | some i => execWith p rand i s

/-- LOAD (R260, R64): all of the bytes, or a report and nothing written; `fault` is not set. A halted core is not
changed (R247); what it reports is whether the bytes would fit (log 11). -/
def State.load (s : State) (start : Nat) (bytes : List Byte) : Served :=
  match s.mem.copyIn start bytes with
  | some m => ⟨s.unlessHalted (s.setMem m), .done⟩
  | none => ⟨s, .outOfBounds⟩

/-- The value of a timer (R263). -/
def State.timer (s : State) : TimerName → Byte
  | .delay => s.dt
  | .sound => s.st

/-- The write of a timer (R263). -/
def State.setTimer (s : State) (v : Byte) : TimerName → State
  | .delay => { s with dt := v }
  | .sound => { s with st := v }

/-- One transaction on the machine with parameters `p`. Only a CYCLE can stop, as `step` does. -/
def serve (p : Params) (t : Transaction) (s : State) : Host.Outcome Served Fault Refusal :=
  match t with
  | .reset => .next ⟨s.resetAgain p, .done⟩
  | .load start bytes => .next (s.load start bytes)
  | .cycle rand =>
    match cycleWith p rand s with
    | .next s' => .next ⟨s', .done⟩
    | .fault r => .fault r
    | .refused r => .refused r
  | .keyWrite k b => .next ⟨s.unlessHalted (s.setKey k b), .done⟩
  | .tick => .next ⟨s.unlessHalted s.tick, .done⟩
  | .timerGet which => .next ⟨s, .timer (s.timer which)⟩
  | .timerSet which v => .next ⟨s.unlessHalted (s.setTimer v which), .done⟩
  | .displayRead => .next ⟨s, .cells (Display.cells s.disp)⟩
  | .soundActive => .next ⟨s, .active s.soundIsActive⟩
  | .faultRead => .next ⟨s, .record s.fault⟩

end Sys2Proof.Machine
end

