-- ==== Sys2Proof/Safety.lean ====
section
/-! DEFINITION. The terms claims are stated in: the invariant of the machine, what an instruction may write, when it
faults, and runs. -/

namespace Sys2Proof.Machine

/-- What holds of every fault record (R241, R242): an address exactly for OutOfBounds, and then one out of bounds;
no word exactly where the fetch itself failed, that is from 4095 on (R121), and then OutOfBounds. -/
structure FaultRecord.Consistent (f : FaultRecord) : Prop where
  addr : f.addr.isSome = true ↔ f.cause = .outOfBounds
  outside : ∀ a, f.addr = some a → 4096 ≤ a
  word : f.word = none ↔ 4095 ≤ f.fpc.toNat
  fetch : f.word = none → f.cause = .outOfBounds

/-- The invariant: the canonical form of memory, `I` within 12 bits (R25), `pc` at most 0x10FE (R27), at most 16
return addresses (R28), each at most 4096 (R27), and a consistent fault record (R241). -/
structure State.Inv (s : State) : Prop where
  mem : s.mem.wf = true
  index : s.index.toNat ≤ 0x0FFF
  pc : s.pc.toNat ≤ 0x10FE
  sp : s.sp.toNat ≤ 16
  stack : ∀ k : Fin 16, s.stack[k].toNat ≤ 4096
  fault : ∀ f, s.fault = some f → f.Consistent

/-- What an instruction may write besides `pc`. Keys are missing: no instruction writes them (R33). -/
structure Writes where
  regs : RegIx → Bool := fun _ => false
  index : Bool := false
  sp : Bool := false
  stack : Fin 16 → Bool := fun _ => false
  dt : Bool := false
  st : Bool := false
  disp : Bool := false
  mem : Nat → Bool := fun _ => false
  draws : Bool := false

/-- `t` differs from `s` at most in `pc` and in what `w` lists. -/
structure Unchanged (w : Writes) (s t : State) : Prop where
  regs : ∀ r, w.regs r = false → t.reg r = s.reg r
  index : w.index = false → t.index = s.index
  sp : w.sp = false → t.sp = s.sp
  stack : ∀ k, w.stack k = false → t.stack[k] = s.stack[k]
  dt : w.dt = false → t.dt = s.dt
  st : w.st = false → t.st = s.st
  keys : t.keys = s.keys
  disp : w.disp = false → t.disp = s.disp
  mem : ∀ a, w.mem a = false → t.mem.peek a = s.mem.peek a
  fault : t.fault = s.fault
  draws : w.draws = false → t.draws = s.draws

end Sys2Proof.Machine

namespace Sys2Proof

open Machine

/-- What each instruction writes besides `pc` when it does not fault (R23 and the "Writes" of each rule). -/
def Instr.writes (i : Instr) (s : State) : Writes :=
  match i with
  | .cls => { disp := true }
  | .ret => { sp := true }
  | .jp _ => {}
  | .call _ => { sp := true, stack := fun k => k.val == s.sp.toNat }
  | .seImm _ _ => {}
  | .sneImm _ _ => {}
  | .seReg _ _ => {}
  | .ldImm x _ => { regs := fun r => r == x }
  | .addImm x _ => { regs := fun r => r == x }
  | .ldReg x _ => { regs := fun r => r == x }
  | .orReg x _ => { regs := fun r => r == x }
  | .andReg x _ => { regs := fun r => r == x }
  | .xorReg x _ => { regs := fun r => r == x }
  | .addReg x _ => { regs := fun r => r == x || r == vF }
  | .sub x _ => { regs := fun r => r == x || r == vF }
  | .shr x _ => { regs := fun r => r == x || r == vF }
  | .subn x _ => { regs := fun r => r == x || r == vF }
  | .shl x _ => { regs := fun r => r == x || r == vF }
  | .sneReg _ _ => {}
  | .ldI _ => { index := true }
  | .jpV0 _ => {}
  | .rnd x _ => { regs := fun r => r == x, draws := true }
  | .drw _ _ _ => { disp := true, regs := fun r => r == vF }
  | .skp _ => {}
  | .sknp _ => {}
  | .ldVxDt x => { regs := fun r => r == x }
  | .ldVxK x => { regs := fun r => r == x && s.keys.contains true }
  | .ldDtVx _ => { dt := true }
  | .ldStVx _ => { st := true }
  | .addI _ => { index := true, regs := fun r => r == vF && decide (s.index.toNat + 8 > 0x0FFF) }
  | .ldF _ => { index := true }
  | .bcd _ => { mem := fun a => decide (s.index.toNat ≤ a) && decide (a < s.index.toNat + 3) }
  | .stRegs x => { mem := fun a => decide (s.index.toNat ≤ a) && decide (a ≤ s.index.toNat + x.toNat) }
  | .ldRegs x => { regs := fun r => decide (r.toNat ≤ x.toNat) }

/-- The fault an instruction's own handler raises, and when (R249); `none` is no fault. -/
def Instr.faultCause (i : Instr) (s : State) : Option Cause :=
  match i with
  | .cls => none
  | .ret => if s.sp.toNat = 0 then some .stackUnderflow else none
  | .jp _ => none
  | .call _ => if s.sp.toNat = 16 then some .stackOverflow else none
  | .seImm _ _ => none
  | .sneImm _ _ => none
  | .seReg _ _ => none
  | .ldImm _ _ => none
  | .addImm _ _ => none
  | .ldReg _ _ => none
  | .orReg _ _ => none
  | .andReg _ _ => none
  | .xorReg _ _ => none
  | .addReg _ _ => none
  | .sub _ _ => none
  | .shr _ _ => none
  | .subn _ _ => none
  | .shl _ _ => none
  | .sneReg _ _ => none
  | .ldI _ => none
  | .jpV0 _ => none
  | .rnd _ _ => none
  | .drw _ _ n => if n.toNat ≥ 1 ∧ s.index.toNat + n.toNat - 1 > 4095 then some .outOfBounds else none
  | .skp _ => none
  | .sknp _ => none
  | .ldVxDt _ => none
  | .ldVxK _ => none
  | .ldDtVx _ => none
  | .ldStVx _ => none
  | .addI _ => none
  | .ldF _ => none
  | .bcd _ => if s.index.toNat + 2 > 4095 then some .outOfBounds else none
  | .stRegs x => if s.index.toNat + x.toNat > 4095 then some .outOfBounds else none
  | .ldRegs x => if s.index.toNat + x.toNat > 4095 then some .outOfBounds else none

/-- RND is the only instruction that takes a random byte (R129). -/
def Instr.isRnd (i : Instr) : Bool := i.mnemonic == .rnd

end Sys2Proof

namespace Sys2Proof.Machine

/-- The fault of a whole cycle, in the priority of R248: the fetch, the dispatch, the handler. -/
def State.cycleCause (s : State) : Option Cause :=
  match s.fetch with
  | .error _ => some .outOfBounds
  | .ok w =>
    match decodeWord w with
    | none => some .unrecognizedInstruction
    | some i => i.faultCause s

/-- A set bit of the sprite at `I`, `n` rows high and drawn at `(vx, vy)`, falls on the cell `(xx, yy)` (R211):
row `j` at address `I + j`, bit `i` counted from the most significant, columns modulo 64 and rows modulo 32. -/
def State.spriteCovers (s : State) (vx vy n : Nat) (xx : Fin 64) (yy : Fin 32) : Prop :=
  ∃ j i, j < n ∧ i < 8 ∧ (s.mem.peek (s.index.toNat + j)).getLsbD (7 - i) = true ∧
    (vx + i) % 64 = xx.val ∧ (vy + j) % 32 = yy.val

/-- Instructions one after the other, stopping where one has no next state. -/
def execAll : List Instr → State → StepOutcome
  | [], s => .next s
  | i :: is, s =>
    match exec i s with
    | .next t => execAll is t
    | .fault r => .fault r
    | .refused r => .refused r

/-- Transactions one after the other, the answers put aside. -/
def serveAll (p : Params) : List Transaction → State → StepOutcome
  | [], s => .next s
  | t :: ts, s =>
    match serve p t s with
    | .next r => serveAll p ts r.state
    | .fault r => .fault r
    | .refused r => .refused r

/-- The states the host can bring the core with parameters `p` to (R14, R265): RESET first, then transactions in any order. -/
inductive Reachable (p : Params) : State → Prop where
  | reset : Reachable p (State.resetFor p)
  | serve (s : State) (t : Transaction) (r : Served) :
    Reachable p s → serve p t s = .next r → Reachable p r.state

/-- A run is safe where no cycle of it faulted (R127: a halted state is no final state of a successful run). -/
def State.Safe (s : State) : Prop := s.fault = none

end Sys2Proof.Machine
end

