-- ==== Sys2Proof/Certificates/Slice0/Obligations.lean ====
section
/-! DEFINITION. The statements for the provers, in the order of OBLIGATIONS.json. Where a statement rests on a choice
the spec marks as its own (a decision D<n> of spec/92_eei_decisions.md) or on one of this model (a log entry), its
docstring says so. Each statement about an instruction gives its result, its `pc`, and its frame (`Unchanged`). The
clauses about `encode` give the word of R96 with the operand fields of R94; its numbers are decision D1's (log 7), and
no rule is cited for those clauses. The functions of the host's side (`serve`, `execWith`, `State.resetFor`, `Reachable`)
take the parameters of R6 as their argument `p`, and what is stated of them holds for every FONT_TABLE and every
KEY_PRIORITY. -/

open Sys2Proof Sys2Proof.Machine

/-! ### Encoding (spec/30_encoding.md) -/

/-- Decoding the word of any instruction gives the instruction back, every operand at every value. The numbers are
those of R96, the spec's decision D1. -/
def Obligations.DecodeOfEncodeIsTheInstruction : Prop :=
  ∀ i : Instr, decodeWord (encode i) = some i

/-- A word that decodes is the word of what it decodes to: each instruction has one word (R98, decision D2: every bit
that is no operand is fixed). -/
def Obligations.EncodeOfDecodeIsTheWord : Prop :=
  ∀ (w : Word) (i : Instr), decodeWord w = some i → encode i = w

/-- The decoder is the opcode map as the spec prints it: either exactly one row accepts the word and the instruction
is that row's, or no row does and there is no instruction (R96, R97; the rows are decision D1's). -/
def Obligations.DecoderFollowsTheOpcodeMap : Prop :=
  ∀ w : Word,
    (∃ r ∈ opcodeMap, r.accepts w = true ∧ (∀ r' ∈ opcodeMap, r'.accepts w = true → r' = r) ∧
      ∃ i, decodeWord w = some i ∧ i.mnemonic = r.mnemonic) ∨
    ((∀ r ∈ opcodeMap, r.accepts w = false) ∧ decodeWord w = none)

/-- The illegal words are exactly the six groups of R98 (decision D2), read off the word's nibbles. -/
def Obligations.IllegalWordsAreThoseListed : Prop :=
  ∀ op x y n : BitVec 4,
    decodeWord (op ++ x ++ y ++ n) = none ↔
      (op = 0x0 ∧ ¬(x = 0x0 ∧ y = 0xE ∧ n = 0x0) ∧ ¬(x = 0x0 ∧ y = 0xE ∧ n = 0xE)) ∨
      (op = 0x5 ∧ n ≠ 0x0) ∨
      (op = 0x8 ∧ n ∈ [0x8#4, 0x9#4, 0xA#4, 0xB#4, 0xC#4, 0xD#4, 0xF#4]) ∨
      (op = 0x9 ∧ n ≠ 0x0) ∨
      (op = 0xE ∧ y ++ n ∉ [0x9E#8, 0xA1#8]) ∨
      (op = 0xF ∧ y ++ n ∉ [0x07#8, 0x0A#8, 0x15#8, 0x18#8, 0x1E#8, 0x29#8, 0x33#8, 0x55#8, 0x65#8])

/-- Words of the spec's own examples, one or more of every family, decode to the instructions they are given for
(rules R140 to R225 and the vectors of 95_test_vectors.md; the numbers are decision D1's). -/
def Obligations.ExampleWordsDecodeAsGiven : Prop :=
  decodeWord 0x00EE#16 = some .ret ∧ decodeWord 0x220A#16 = some (.call 0x20A) ∧
  decodeWord 0x8126#16 = some (.shr 1 2) ∧ decodeWord 0x70FF#16 = some (.addImm 0 0xFF) ∧
  decodeWord 0xFA33#16 = some (.bcd 0xA) ∧ decodeWord 0xF265#16 = some (.ldRegs 2) ∧
  decodeWord 0xD122#16 = some (.drw 1 2 2) ∧ decodeWord 0x00E0#16 = some .cls ∧
  decodeWord 0xE49E#16 = some (.skp 4) ∧ decodeWord 0xF70A#16 = some (.ldVxK 7) ∧
  decodeWord 0x5121#16 = none ∧ decodeWord 0x0000#16 = none

/-- The assembler makes the one word that decodes to the line it was given, and makes none where a number does not fit
its field (R101; the written form is decision D20's, the list of numbers log 13's). -/
def Obligations.AssembledWordsDecodeToTheirLine : Prop :=
  ∀ l : AsmLine,
    (l.wellFormed = true → ∃ w i, assemble l = some w ∧ decodeWord w = some i ∧ i.asmLine = l) ∧
    (l.wellFormed = false → assemble l = none)

/-! ### The cycle and its faults (spec/40_cycle.md, spec/60_exceptions.md) -/

/-- The fetch: two reads, the lower address giving bits 15 to 8; it succeeds exactly for `pc` up to 4094 and otherwise
reports 4096 from 4095 and `pc` itself from 4096 on, with `pc + 1` not reduced; the fault record then has no word
(R67, R121). -/
def Obligations.FetchIsBigEndianAndBounded : Prop :=
  ∀ s : State,
    (s.pc.toNat ≤ 4094 → ∃ w : Word, s.fetch = .ok w ∧ w.extractLsb' 8 8 = s.mem.peek s.pc.toNat ∧
      w.extractLsb' 0 8 = s.mem.peek (s.pc.toNat + 1)) ∧
    (s.pc.toNat = 4095 → s.fetch = .error 4096) ∧
    (4096 ≤ s.pc.toNat → s.fetch = .error s.pc.toNat) ∧
    (∀ a, s.fault = none → s.fetch = .error a → ∃ t f, step s = .next t ∧ t.fault = some f ∧
      f.cause = .outOfBounds ∧ f.word = none ∧ f.addr = some a)

/-- When the two bytes at `pc` decode to an instruction, the cycle is that instruction's meaning on the state as it
is: the meanings do the advance of `pc` themselves (R120; where the advance stands is log 5's). -/
def Obligations.StepRunsTheDecodedInstruction : Prop :=
  ∀ (s : State) (i : Instr), s.fault = none → s.pc.toNat ≤ 4094 →
    decodeWord (wordOfBytes (s.mem.peek s.pc.toNat) (s.mem.peek (s.pc.toNat + 1))) = some i → step s = exec i s

/-- A word of no instruction halts the core with cause UnrecognizedInstruction and the word, all else unchanged; so
does the first cycle after RESET with nothing loaded, with the word 0x0000 at 0x200 (R245, R293; that nothing else
changes is decision D10). -/
def Obligations.IllegalWordsAreRecorded : Prop :=
  (∀ (s : State) (w : Word), s.fault = none → s.fetch = .ok w → decodeWord w = none →
    step s = .next { s with fault := some ⟨.unrecognizedInstruction, s.pc, some w, none⟩ }) ∧
  step State.reset =
    .next { State.reset with fault := some ⟨.unrecognizedInstruction, 0x200, some 0x0000, none⟩ }

/-- A halted core does nothing, for ever: any run of transactions without a RESET, cycles among them, leaves the whole
state; a RESET ends the halt (R127; decision D22). -/
def Obligations.HaltLastsUntilReset : Prop :=
  ∀ (p : Params) (s : State), s.fault ≠ none →
    step s = .next s ∧
    (∀ ts : List Transaction, Transaction.reset ∉ ts → serveAll p ts s = .next s) ∧
    ∃ t, serve p .reset s = .next ⟨t, .done⟩ ∧ t.fault = none

/-- Faults are precise: a cycle that faults changes nothing but `fault`, and the record holds the address of the
instruction, its word unless the fetch failed, and an address exactly for OutOfBounds (R241, R246; decision D10). -/
def Obligations.FaultsArePrecise : Prop :=
  ∀ s t : State, s.fault = none → step s = .next t → t.fault ≠ none →
    ∃ f : FaultRecord, t = { s with fault := some f } ∧ f.fpc = s.pc ∧
      (∀ w, s.fetch = .ok w → f.word = some w) ∧ (∀ a, s.fetch = .error a → f.word = none ∧ f.addr = some a) ∧
      (f.addr.isSome = true ↔ f.cause = .outOfBounds)

/-- A running core with at most 16 return addresses completes every cycle, and faults exactly as the table of faults
says (R249). The order in which a cycle meets them, fetch, dispatch, handler, is decision D11's (R248; log 15); that a
word of no row is illegal is decision D2's; the premise on `sp` keeps away the model's own stop (log 6). -/
def Obligations.CyclesFaultExactlyAsTabulated : Prop :=
  ∀ s : State, s.fault = none → s.sp.toNat ≤ 16 →
    ∃ t, step s = .next t ∧ t.fault.map (·.cause) = s.cycleCause

/-- An instruction placed where the fetch reads is the one the next cycle runs, whatever the state was (R74, R293;
how it is placed is log 9's). -/
def Obligations.PlacedInstructionRunsNext : Prop :=
  ∀ (i : Instr) (s : State), s.mem.wf = true →
    step (s.withFetchWord 16 (encode i).toNat) = exec i (s.withFetchWord 16 (encode i).toNat)

/-- Self-modifying code needs no fence: after ST_REGS, a fetch at any two of the stored addresses reads the stored
registers as a word (R74). -/
def Obligations.StoredRegistersAreFetched : Prop :=
  ∀ (x k k' : RegIx) (p : Word) (s t : State), s.mem.wf = true → s.index.toNat + x.toNat ≤ 4095 →
    k'.toNat = k.toNat + 1 → k'.toNat ≤ x.toNat → p.toNat = s.index.toNat + k.toNat →
    exec (.stRegs x) s = .next t → (t.jump p).fetch = .ok (wordOfBytes (s.reg k) (s.reg k'))

/-! ### Rules of the whole machine -/

/-- The frame of every instruction: where it does not fault, it writes at most `pc` and what its rule lists
(`Instr.writes`); where it faults, `fault` alone. Choices of the spec it rests on: ADD_I without overflow keeps VF
(decision D5), ST_REGS and LD_REGS keep `I` (decision D13), JP_V0 keeps `I` (decision D4), a fault changes nothing else
(decision D10; log 5). That RND also counts its byte in `draws` is the model's (log 1). -/
def Obligations.InstructionsWriteOnlyWhatTheyList : Prop :=
  ∀ (i : Instr) (s t : State), exec i s = .next t →
    (t.fault = s.fault → Unchanged (i.writes s) s t) ∧ (t.fault ≠ s.fault → t = { s with fault := t.fault })

/-- Who writes what, the "written by" column of R20: keys no instruction (R33), the display CLS and DRW (R34, R213),
memory BCD and ST_REGS (R72), the stack CALL and RET (R28), each timer its own instruction (R31, R32), `I` the three
of R24. That ST_REGS and LD_REGS are not among those that write `I` is decision D13 (log 15), and that a faulting
instruction writes none of these is decision D10 (log 5). -/
def Obligations.EachStateHasItsOwnWriters : Prop :=
  ∀ (i : Instr) (s t : State), exec i s = .next t →
    t.keys = s.keys ∧
    (t.disp ≠ s.disp → i.mnemonic ∈ [Mnemonic.cls, .drw]) ∧
    (t.mem ≠ s.mem → i.mnemonic ∈ [Mnemonic.bcd, .stRegs]) ∧
    (t.stack ≠ s.stack → i.mnemonic = .call) ∧ (t.sp ≠ s.sp → i.mnemonic ∈ [Mnemonic.call, .ret]) ∧
    (t.dt ≠ s.dt → i.mnemonic = .ldDtVx) ∧ (t.st ≠ s.st → i.mnemonic = .ldStVx) ∧
    (t.index ≠ s.index → i.mnemonic ∈ [Mnemonic.ldI, .addI, .ldF])

/-- VF changes only by the seven instructions of R23 as a side effect, by LD_REGS with `X` = 15, and by an instruction
whose operand `X` is 15 and names the destination. -/
def Obligations.FlagRegisterHasItsOwnWriters : Prop :=
  ∀ (i : Instr) (s t : State), exec i s = .next t → t.reg vF ≠ s.reg vF →
    i.mnemonic ∈ [Mnemonic.addReg, .sub, .subn, .shr, .shl, .drw, .addI] ∨
    (i.asmLine.operands.head? = some 15 ∧
      i.mnemonic ∈ [Mnemonic.ldImm, .addImm, .ldReg, .orReg, .andReg, .xorReg, .rnd, .ldVxDt, .ldVxK, .ldRegs])

/-- Only RND reads the random byte (R129, decision D7): two states that differ only in which bytes are still to come
stay so under every other instruction. -/
def Obligations.OnlyRndReadsTheRandomByte : Prop :=
  ∀ (i : Instr) (s t : State) (n : Nat), i.isRnd = false → exec i s = .next t →
    t.draws = s.draws ∧ exec i { s with draws := n } = .next { t with draws := n }

/-! ### Invariants -/

/-- Every cycle keeps the invariant: memory canonical, `I` within 12 bits (R25), `pc` at most 0x10FE (R27), at most 16
return addresses (R28) of at most 4096 each (R27), fault records consistent (R241). -/
def Obligations.StepKeepsTheInvariant : Prop :=
  ∀ s t : State, s.Inv → step s = .next t → t.Inv

/-- The state after RESET meets the invariant, with the default FONT_TABLE and with any other (R6). -/
def Obligations.ResetMeetsTheInvariant : Prop := State.reset.Inv ∧ ∀ p : Params, (State.resetFor p).Inv

/-- Every transaction of the host keeps the invariant, so every reachable state meets it, whatever the
parameters of R6 are (R25, R27). -/
def Obligations.ReachableStatesMeetTheInvariant : Prop :=
  ∀ p : Params,
    (∀ (s : State) (t : Transaction) (r : Served), s.Inv → serve p t s = .next r → r.state.Inv) ∧
    ∀ s : State, Reachable p s → s.Inv

/-- In a state that meets the invariant no cycle stops without a next state: the model's own stops are unreachable
(R28; log 6). -/
def Obligations.InvariantStatesAlwaysStep : Prop :=
  ∀ s : State, s.Inv → ∃ t, step s = .next t ∧ t.Inv

/-! ### Reset (spec/10_state.md R40, R41) -/

/-- What the source itself says of the state at startup: FONT_TABLE at 0 to 79, zero above, `pc` = 0x200 (R40). It holds
of `State.reset`, whose FONT_TABLE is `fontTable`, and of the reset state of a machine with any other (R6). -/
def Obligations.ResetPlacesFontAndProgramCounter : Prop :=
  (State.reset.pc = 0x0200 ∧ fontTable.length = 80 ∧
    (∀ a, a ≤ 79 → State.reset.mem.read a = .ok (fontTable.getD a 0)) ∧
    ∀ a, 80 ≤ a → a ≤ 4095 → State.reset.mem.read a = .ok 0) ∧
  ∀ p : Params, (State.resetFor p).pc = 0x0200 ∧ p.font.length = 80 ∧
    (∀ a, a ≤ 79 → (State.resetFor p).mem.read a = .ok (p.font.getD a 0)) ∧
    ∀ a, 80 ≤ a → a ≤ 4095 → (State.resetFor p).mem.read a = .ok 0

/-- Everything else is zero, off or absent after RESET (R41, the spec's decision D8; log 4), whatever the parameters are;
and `State.reset` is the reset state at their defaults (R6; decisions D6 and D14, log 2, log 3). -/
def Obligations.ResetClearsEverythingElse : Prop :=
  (∀ r, State.reset.reg r = 0) ∧ State.reset.index = 0 ∧ State.reset.sp = 0 ∧
  (∀ k : Fin 16, State.reset.stack[k] = 0) ∧ State.reset.dt = 0 ∧ State.reset.st = 0 ∧
  State.reset.soundIsActive = false ∧ (∀ k, State.reset.key k = false) ∧
  (∀ xx yy, Display.cell State.reset.disp xx yy = false) ∧ State.reset.fault = none ∧
  State.resetFor Params.default = State.reset ∧
  ∀ p : Params, State.resetFor p = { State.reset with mem := (State.resetFor p).mem }

/-! ### Memory (spec/20_memory.md) -/

/-- Reads and writes are bounds-checked and a write changes that one byte and nothing else (R61, R62). -/
def Obligations.WritesChangeOneByte : Prop :=
  ∀ (m : Memory) (a : Nat) (v : Byte), m.wf = true →
    (4096 ≤ a → m.read a = .error a ∧ m.write a v = .error a) ∧
    (a < 4096 → (∃ b, m.read a = .ok b) ∧
      ∃ m', m.write a v = .ok m' ∧ m'.wf = true ∧ m'.read a = .ok v ∧ ∀ b, b ≠ a → m'.read b = m.read b)

/-- The bulk copy is all or nothing, and the test is on the sum (R64). -/
def Obligations.CopyInIsAllOrNothing : Prop :=
  ∀ (m : Memory) (start : Nat) (bytes : List Byte), m.wf = true →
    (start + bytes.length > 4096 → m.copyIn start bytes = none) ∧
    (start + bytes.length ≤ 4096 → ∃ m', m.copyIn start bytes = some m' ∧ m'.wf = true ∧
      (∀ k (h : k < bytes.length), m'.peek (start + k) = bytes[k]) ∧
      ∀ a, a < start ∨ start + bytes.length ≤ a → m'.peek a = m.peek a)

/-- Memories in canonical form that hold the same bytes are the same data (the form is log 10's). -/
def Obligations.EqualBytesAreEqualMemories : Prop :=
  ∀ m m' : Memory, m.wf = true → m'.wf = true → (∀ a, m.peek a = m'.peek a) → m = m'

/-! ### Control flow (spec/41_flow.md) -/

/-- JP: `pc <- zext_16(NNN)`, nothing else; at its own address the whole state is unchanged; 0xFFF faults in the next
cycle, not in this one (R141). -/
def Obligations.JumpGoesToItsAddress : Prop :=
  ∀ (nnn : Addr) (s : State),
    encode (.jp nnn) = 0x1#4 ++ nnn ∧
    (∃ t, exec (.jp nnn) s = .next t ∧ t.pc.toNat = nnn.toNat ∧ Unchanged {} s t ∧
      (nnn = 0xFFF → t.fetch = .error 4096)) ∧
    (s.pc.toNat = nnn.toNat → exec (.jp nnn) s = .next s)

/-- A self-jump is a fixed point of the cycle (R304, decision D25; R141). -/
def Obligations.SelfJumpIsAFixedPoint : Prop :=
  ∀ s : State, s.fault = none → s.pc.toNat ≤ 4094 →
    (s.mem.peek s.pc.toNat).toNat = 16 + s.pc.toNat / 256 →
    (s.mem.peek (s.pc.toNat + 1)).toNat = s.pc.toNat % 256 → step s = .next s

/-- CALL: with room on the stack it pushes the address after itself and jumps; with `sp` = 16 it raises StackOverflow
and writes nothing else (R142). -/
def Obligations.CallPushesTheReturnAddress : Prop :=
  ∀ (nnn : Addr) (s : State),
    encode (.call nnn) = 0x2#4 ++ nnn ∧
    (s.sp.toNat < 16 → ∃ t, exec (.call nnn) s = .next t ∧ t.pc.toNat = nnn.toNat ∧
      t.sp.toNat = s.sp.toNat + 1 ∧ (∀ k : Fin 16, k.val = s.sp.toNat → t.stack[k] = s.pc + 2) ∧
      Unchanged { sp := true, stack := fun k => k.val == s.sp.toNat } s t) ∧
    (s.sp.toNat = 16 → ∃ f : FaultRecord, f.cause = .stackOverflow ∧
      exec (.call nnn) s = .next { s with fault := some f })

/-- RET: it takes the top return address into `pc` unchanged, and the cell keeps its value; with `sp` = 0 it raises
StackUnderflow and writes nothing else (R140). -/
def Obligations.ReturnPopsTheTopAddress : Prop :=
  ∀ s : State,
    encode .ret = 0x00EE#16 ∧
    (1 ≤ s.sp.toNat → s.sp.toNat ≤ 16 → ∃ t, exec .ret s = .next t ∧ t.sp.toNat = s.sp.toNat - 1 ∧
      (∀ k : Fin 16, k.val = s.sp.toNat - 1 → t.pc = s.stack[k]) ∧ Unchanged { sp := true } s t) ∧
    (s.sp.toNat = 0 → ∃ f : FaultRecord, f.cause = .stackUnderflow ∧ exec .ret s = .next { s with fault := some f })

/-- A call and then a return come back to the address after the call, with the stack pointer as before; and from an
empty stack sixteen calls succeed and a seventeenth overflows (R29, R140, R142). That the overflow changes nothing but the fault
record, and that the record holds the address of the seventeenth call, is decision D10 (log 5). -/
def Obligations.CallsNestSixteenDeepAndReturn : Prop :=
  (∀ (nnn : Addr) (s : State), s.sp.toNat < 16 →
    ∃ t, execAll [.call nnn, .ret] s = .next t ∧ t.pc = s.pc + 2 ∧ t.sp = s.sp) ∧
  (∀ (s : State) (targets : List Addr) (last : Addr), s.fault = none → s.sp = 0 → targets.length = 16 →
    ∃ t, execAll (targets.map Instr.call) s = .next t ∧ t.sp.toNat = 16 ∧ t.fault = none ∧
      exec (.call last) t =
        .next { t with fault := some ⟨.stackOverflow, t.pc, some (encode (.call last)), none⟩ })

/-- With a stack pointer above 16, which the spec calls unreachable and gives no cell for, CALL and RET stop by name
(R28; the stop is the model's, log 6). -/
def Obligations.AbsentStackCellsStop : Prop :=
  ∀ (nnn : Addr) (s : State), 16 < s.sp.toNat →
    exec (.call nnn) s = .fault (.stackCellAbsent s.sp) ∧ exec .ret s = .fault (.stackCellAbsent s.sp)

/-- The four register skips pass over one word exactly when their condition holds and change nothing but `pc`; 5XYN and
9XYN with `N` not 0 raise UnrecognizedInstruction (R143 to R146). -/
def Obligations.RegisterSkipsPassOneWord : Prop :=
  ∀ (x y : RegIx) (nn : Byte) (s : State),
    (encode (.seImm x nn) = 0x3#4 ++ x ++ nn ∧ encode (.sneImm x nn) = 0x4#4 ++ x ++ nn ∧
      encode (.seReg x y) = 0x5#4 ++ x ++ y ++ 0x0#4 ∧ encode (.sneReg x y) = 0x9#4 ++ x ++ y ++ 0x0#4) ∧
    (∃ t, exec (.seImm x nn) s = .next t ∧ Unchanged {} s t ∧
      t.pc = if s.reg x = nn then s.pc + 4 else s.pc + 2) ∧
    (∃ t, exec (.sneImm x nn) s = .next t ∧ Unchanged {} s t ∧
      t.pc = if s.reg x = nn then s.pc + 2 else s.pc + 4) ∧
    (∃ t, exec (.seReg x y) s = .next t ∧ Unchanged {} s t ∧
      t.pc = if s.reg x = s.reg y then s.pc + 4 else s.pc + 2) ∧
    (∃ t, exec (.sneReg x y) s = .next t ∧ Unchanged {} s t ∧
      t.pc = if s.reg x = s.reg y then s.pc + 2 else s.pc + 4) ∧
    (∀ (n : BitVec 4) (u : State), n ≠ 0 → u.fault = none →
      (u.fetch = .ok (0x5#4 ++ x ++ y ++ n) ∨ u.fetch = .ok (0x9#4 ++ x ++ y ++ n)) →
      ∃ t f, step u = .next t ∧ t.fault = some f ∧ f.cause = .unrecognizedInstruction)

/-- JP_V0: the target is the exact sum of `NNN` and V0, whatever register bits 11 to 8 name, and `I` is untouched; a sum
of 4095 or more makes the next fetch fail (R147; the variant is decision D4's). -/
def Obligations.OffsetJumpAddsV0 : Prop :=
  ∀ (nnn : Addr) (s : State),
    encode (.jpV0 nnn) = 0xB#4 ++ nnn ∧
    ∃ t, exec (.jpV0 nnn) s = .next t ∧ t.pc.toNat = nnn.toNat + (s.reg v0).toNat ∧ Unchanged {} s t ∧
      (4095 ≤ nnn.toNat + (s.reg v0).toNat → t.fetch = .error (max 4096 (nnn.toNat + (s.reg v0).toNat)))

/-! ### Register load, arithmetic, logic, shift, random (spec/42_load_alu.md) -/

/-- LD_IMM and ADD_IMM: the immediate, and the sum modulo 256 with no flag written (R160, R161). -/
def Obligations.ImmediatesLoadAndAdd : Prop :=
  ∀ (x : RegIx) (nn : Byte) (s : State),
    (encode (.ldImm x nn) = 0x6#4 ++ x ++ nn ∧ encode (.addImm x nn) = 0x7#4 ++ x ++ nn) ∧
    (∃ t, exec (.ldImm x nn) s = .next t ∧ t.reg x = nn ∧ t.pc = s.pc + 2 ∧
      Unchanged { regs := fun r => r == x } s t) ∧
    (∃ t, exec (.addImm x nn) s = .next t ∧ (t.reg x).toNat = ((s.reg x).toNat + nn.toNat) % 256 ∧
      t.pc = s.pc + 2 ∧ Unchanged { regs := fun r => r == x } s t)

/-- LD_REG, OR, AND, XOR write `Vx` bit by bit and no flag (R162 to R165). -/
def Obligations.CopyAndLogicLeaveTheFlag : Prop :=
  ∀ (x y : RegIx) (s : State),
    (encode (.ldReg x y) = 0x8#4 ++ x ++ y ++ 0x0#4 ∧ encode (.orReg x y) = 0x8#4 ++ x ++ y ++ 0x1#4 ∧
      encode (.andReg x y) = 0x8#4 ++ x ++ y ++ 0x2#4 ∧ encode (.xorReg x y) = 0x8#4 ++ x ++ y ++ 0x3#4) ∧
    (∃ t, exec (.ldReg x y) s = .next t ∧ t.reg x = s.reg y ∧ t.pc = s.pc + 2 ∧
      Unchanged { regs := fun r => r == x } s t) ∧
    (∃ t, exec (.orReg x y) s = .next t ∧ t.pc = s.pc + 2 ∧ Unchanged { regs := fun r => r == x } s t ∧
      ∀ k, (t.reg x).getLsbD k = ((s.reg x).getLsbD k || (s.reg y).getLsbD k)) ∧
    (∃ t, exec (.andReg x y) s = .next t ∧ t.pc = s.pc + 2 ∧ Unchanged { regs := fun r => r == x } s t ∧
      ∀ k, (t.reg x).getLsbD k = ((s.reg x).getLsbD k && (s.reg y).getLsbD k)) ∧
    (∃ t, exec (.xorReg x y) s = .next t ∧ t.pc = s.pc + 2 ∧ Unchanged { regs := fun r => r == x } s t ∧
      ∀ k, (t.reg x).getLsbD k = ((s.reg x).getLsbD k ^^ (s.reg y).getLsbD k))

/-- ADD_REG: the sum modulo 256, and VF the carry, written last: with `X` = 15 the sum is lost (R166). -/
def Obligations.AddWritesSumThenCarry : Prop :=
  ∀ (x y : RegIx) (s : State),
    encode (.addReg x y) = 0x8#4 ++ x ++ y ++ 0x4#4 ∧
    ∃ t, exec (.addReg x y) s = .next t ∧ t.pc = s.pc + 2 ∧
      (x ≠ vF → (t.reg x).toNat = ((s.reg x).toNat + (s.reg y).toNat) % 256) ∧
      t.reg vF = (if (s.reg x).toNat + (s.reg y).toNat > 255 then 1 else 0) ∧
      Unchanged { regs := fun r => r == x || r == vF } s t

/-- SUB and SUBN: the difference modulo 256, and VF = 1 for no borrow, equality included, written last (R167, R169). -/
def Obligations.SubtractionsWriteNoBorrow : Prop :=
  ∀ (x y : RegIx) (s : State),
    (encode (.sub x y) = 0x8#4 ++ x ++ y ++ 0x5#4 ∧ encode (.subn x y) = 0x8#4 ++ x ++ y ++ 0x7#4) ∧
    (∃ t, exec (.sub x y) s = .next t ∧ t.pc = s.pc + 2 ∧
      (x ≠ vF → ((t.reg x).toNat : Int) = (((s.reg x).toNat : Int) - (s.reg y).toNat) % 256) ∧
      t.reg vF = (if (s.reg x).toNat ≥ (s.reg y).toNat then 1 else 0) ∧
      Unchanged { regs := fun r => r == x || r == vF } s t) ∧
    (∃ t, exec (.subn x y) s = .next t ∧ t.pc = s.pc + 2 ∧
      (x ≠ vF → ((t.reg x).toNat : Int) = (((s.reg y).toNat : Int) - (s.reg x).toNat) % 256) ∧
      t.reg vF = (if (s.reg y).toNat ≥ (s.reg x).toNat then 1 else 0) ∧
      Unchanged { regs := fun r => r == x || r == vF } s t)

/-- SHR and SHL: `Vy` halved, or doubled modulo 256, into `Vx`, and VF the bit shifted out, written last; the old `Vx`
is no operand (R168, R170). -/
def Obligations.ShiftsMoveVyByOneBit : Prop :=
  ∀ (x y : RegIx) (s : State),
    (encode (.shr x y) = 0x8#4 ++ x ++ y ++ 0x6#4 ∧ encode (.shl x y) = 0x8#4 ++ x ++ y ++ 0xE#4) ∧
    (∃ t, exec (.shr x y) s = .next t ∧ t.pc = s.pc + 2 ∧
      (x ≠ vF → (t.reg x).toNat = (s.reg y).toNat / 2) ∧ (t.reg vF).toNat = (s.reg y).toNat % 2 ∧
      Unchanged { regs := fun r => r == x || r == vF } s t) ∧
    (∃ t, exec (.shl x y) s = .next t ∧ t.pc = s.pc + 2 ∧
      (x ≠ vF → (t.reg x).toNat = 2 * (s.reg y).toNat % 256) ∧ (t.reg vF).toNat = (s.reg y).toNat / 128 ∧
      Unchanged { regs := fun r => r == x || r == vF } s t)

/-- RND: the cycle's random byte masked by `NN`, so no bit outside `NN` is ever set; each execution takes the next byte.
It holds whatever the bytes are, and for a byte the host gives, whatever the parameters (R172, R259; decision D7,
log 1). -/
def Obligations.RandomByteIsMasked : Prop :=
  ∀ (x : RegIx) (nn : Byte) (s : State),
    encode (.rnd x nn) = 0xC#4 ++ x ++ nn ∧
    (∃ t, exec (.rnd x nn) s = .next t ∧ t.pc = s.pc + 2 ∧ t.reg x = Config.randByte s.draws &&& nn ∧
      (∀ k, nn.getLsbD k = false → (t.reg x).getLsbD k = false) ∧ t.draws = s.draws + 1 ∧
      Unchanged { regs := fun r => r == x, draws := true } s t) ∧
    (∀ (p : Params) (rand : Byte), ∃ t, execWith p rand (.rnd x nn) s = .next t ∧ t.pc = s.pc + 2 ∧ t.reg x = rand &&& nn ∧
      Unchanged { regs := fun r => r == x, draws := true } s t)

/-! ### Index register and memory (spec/43_index_memory.md) -/

/-- LD_I and LD_F: `I` is `NNN`, or five times the low nibble of `Vx` (R190, R192). -/
def Obligations.IndexIsSetToAddressOrGlyph : Prop :=
  ∀ (nnn : Addr) (x : RegIx) (s : State),
    (encode (.ldI nnn) = 0xA#4 ++ nnn ∧ encode (.ldF x) = 0xF#4 ++ x ++ 0x29#8) ∧
    (∃ t, exec (.ldI nnn) s = .next t ∧ t.index.toNat = nnn.toNat ∧ t.pc = s.pc + 2 ∧
      Unchanged { index := true } s t) ∧
    (∃ t, exec (.ldF x) s = .next t ∧ t.index.toNat = (s.reg x).toNat % 16 * 5 ∧ t.pc = s.pc + 2 ∧
      Unchanged { index := true } s t)

/-- ADD_I: `I + 8` for every `X`; past 0x0FFF the low 12 bits and VF = 1, otherwise VF is kept (R191; decision D5). -/
def Obligations.AddToIndexAddsEight : Prop :=
  ∀ (x : RegIx) (s : State),
    encode (.addI x) = 0xF#4 ++ x ++ 0x1E#8 ∧
    ∃ t, exec (.addI x) s = .next t ∧ t.pc = s.pc + 2 ∧
      (s.index.toNat + 8 > 0x0FFF → t.index.toNat = (s.index.toNat + 8) % 4096 ∧ t.reg vF = 1 ∧
        Unchanged { index := true, regs := fun r => r == vF } s t) ∧
      (s.index.toNat + 8 ≤ 0x0FFF → t.index.toNat = s.index.toNat + 8 ∧ Unchanged { index := true } s t)

/-- BCD: the three digits of `Vx` at `I`, `I + 1`, `I + 2`; past the end of memory it raises OutOfBounds with the first
address that is out and writes nothing (R193). -/
def Obligations.BcdStoresThreeDigits : Prop :=
  ∀ (x : RegIx) (s : State),
    encode (.bcd x) = 0xF#4 ++ x ++ 0x33#8 ∧
    (s.mem.wf = true → s.index.toNat + 2 < 4096 → ∃ t, exec (.bcd x) s = .next t ∧ t.pc = s.pc + 2 ∧
      (t.mem.peek s.index.toNat).toNat = (s.reg x).toNat / 100 ∧
      (t.mem.peek (s.index.toNat + 1)).toNat = (s.reg x).toNat / 10 % 10 ∧
      (t.mem.peek (s.index.toNat + 2)).toNat = (s.reg x).toNat % 10 ∧
      Unchanged { mem := fun a => decide (s.index.toNat ≤ a) && decide (a < s.index.toNat + 3) } s t) ∧
    (s.index.toNat + 2 ≥ 4096 → ∃ f : FaultRecord, f.cause = .outOfBounds ∧
      f.addr = [s.index.toNat, s.index.toNat + 1, s.index.toNat + 2].find? (fun a => decide (4096 ≤ a)) ∧
      exec (.bcd x) s = .next { s with fault := some f })

/-- ST_REGS: V0 to Vx at `I` on, `I` kept; past the end of memory it raises OutOfBounds with the first address that is
out and writes nothing (R194, R195; decisions D10, D13). -/
def Obligations.StoreRegistersCopiesV0ToVx : Prop :=
  ∀ (x : RegIx) (s : State),
    encode (.stRegs x) = 0xF#4 ++ x ++ 0x55#8 ∧
    (s.mem.wf = true → s.index.toNat + x.toNat < 4096 → ∃ t, exec (.stRegs x) s = .next t ∧ t.pc = s.pc + 2 ∧
      (∀ k : RegIx, k.toNat ≤ x.toNat → t.mem.peek (s.index.toNat + k.toNat) = s.reg k) ∧
      Unchanged { mem := fun a => decide (s.index.toNat ≤ a) && decide (a ≤ s.index.toNat + x.toNat) } s t) ∧
    (s.index.toNat + x.toNat ≥ 4096 → exec (.stRegs x) s =
      .next { s with fault := some ⟨.outOfBounds, s.pc, some (encode (.stRegs x)), some (max s.index.toNat 4096)⟩ })

/-- LD_REGS: V0 to Vx from `I` on, registers above Vx and `I` kept; past the end of memory it raises OutOfBounds with
the first address that is out and writes nothing (R194, R196; decisions D10, D13). -/
def Obligations.LoadRegistersFillsV0ToVx : Prop :=
  ∀ (x : RegIx) (s : State),
    encode (.ldRegs x) = 0xF#4 ++ x ++ 0x65#8 ∧
    (s.index.toNat + x.toNat < 4096 → ∃ t, exec (.ldRegs x) s = .next t ∧ t.pc = s.pc + 2 ∧
      (∀ k : RegIx, k.toNat ≤ x.toNat → t.reg k = s.mem.peek (s.index.toNat + k.toNat)) ∧
      Unchanged { regs := fun r => decide (r.toNat ≤ x.toNat) } s t) ∧
    (s.index.toNat + x.toNat ≥ 4096 → exec (.ldRegs x) s =
      .next { s with fault := some ⟨.outOfBounds, s.pc, some (encode (.ldRegs x)), some (max s.index.toNat 4096)⟩ })

/-- LD_REGS is the inverse of ST_REGS: run on the memory and the `I` a ST_REGS left, whatever else has changed, it brings
V0 to Vx back (R195, R196). That the store leaves `I` where it was is decision D13 (log 15). -/
def Obligations.LoadUndoesStore : Prop :=
  ∀ (x : RegIx) (s t u : State), s.mem.wf = true → s.index.toNat + x.toNat < 4096 →
    exec (.stRegs x) s = .next t → u.mem = t.mem → u.index = t.index →
    ∃ v, exec (.ldRegs x) u = .next v ∧ ∀ k : RegIx, k.toNat ≤ x.toNat → v.reg k = s.reg k

/-! ### Display (spec/44_display.md) -/

/-- CLS: every cell off, nothing else (R210). -/
def Obligations.ClearScreenTurnsEveryCellOff : Prop :=
  encode .cls = 0x00E0#16 ∧
  ∀ s : State, ∃ t, exec .cls s = .next t ∧ (∀ xx yy, Display.cell t.disp xx yy = false) ∧ t.pc = s.pc + 2 ∧
    Unchanged { disp := true } s t

/-- DRW as what it does to each cell, not as loops: the cells a set sprite bit falls on change and no others; VF is 1 if
one of them was on and 0 if none was; with `N` = 0 no address is touched (decision D19); past the end of memory it
raises OutOfBounds and changes nothing else (R194, R211). -/
def Obligations.DrawTogglesTheCoveredCells : Prop :=
  ∀ (x y : RegIx) (n : BitVec 4) (s : State),
    encode (.drw x y n) = 0xD#4 ++ x ++ y ++ n ∧
    (n.toNat = 0 ∨ s.index.toNat + n.toNat - 1 < 4096 → ∃ t, exec (.drw x y n) s = .next t ∧ t.pc = s.pc + 2 ∧
      (∀ xx yy, s.spriteCovers (s.reg x).toNat (s.reg y).toNat n.toNat xx yy →
        Display.cell t.disp xx yy = !Display.cell s.disp xx yy) ∧
      (∀ xx yy, ¬ s.spriteCovers (s.reg x).toNat (s.reg y).toNat n.toNat xx yy →
        Display.cell t.disp xx yy = Display.cell s.disp xx yy) ∧
      ((∃ xx yy, s.spriteCovers (s.reg x).toNat (s.reg y).toNat n.toNat xx yy ∧
        Display.cell s.disp xx yy = true) → t.reg vF = 1) ∧
      ((∀ xx yy, s.spriteCovers (s.reg x).toNat (s.reg y).toNat n.toNat xx yy →
        Display.cell s.disp xx yy = false) → t.reg vF = 0) ∧
      Unchanged { disp := true, regs := fun r => r == vF } s t) ∧
    (n.toNat ≥ 1 → s.index.toNat + n.toNat - 1 ≥ 4096 → exec (.drw x y n) s =
      .next { s with fault := some ⟨.outOfBounds, s.pc, some (encode (.drw x y n)), some (max s.index.toNat 4096)⟩ })

/-- Drawing the same sprite at the same place twice, with neither coordinate in VF, gives the display back; the second
draw sets VF exactly when a set bit fell on a cell that was off at first (R212). -/
def Obligations.DrawingTwiceRestoresTheDisplay : Prop :=
  ∀ (x y : RegIx) (n : BitVec 4) (s : State), x ≠ vF → y ≠ vF →
    (n.toNat = 0 ∨ s.index.toNat + n.toNat - 1 < 4096) →
    ∃ t, execAll [.drw x y n, .drw x y n] s = .next t ∧ t.disp = s.disp ∧
      (t.reg vF = 1 ↔ ∃ xx yy, s.spriteCovers (s.reg x).toNat (s.reg y).toNat n.toNat xx yy ∧
        Display.cell s.disp xx yy = false)

/-! ### Keys and timers (spec/45_keys_timers.md) -/

/-- SKP and SKNP skip one word exactly when the key named by the low nibble of `Vx` is down, or up (R220, R221). -/
def Obligations.KeySkipsTestTheLowNibbleKey : Prop :=
  ∀ (x : RegIx) (k : KeyIx) (s : State), k.toNat = (s.reg x).toNat % 16 →
    (encode (.skp x) = 0xE#4 ++ x ++ 0x9E#8 ∧ encode (.sknp x) = 0xE#4 ++ x ++ 0xA1#8) ∧
    (∃ t, exec (.skp x) s = .next t ∧ Unchanged {} s t ∧
      t.pc = if s.key k = true then s.pc + 4 else s.pc + 2) ∧
    (∃ t, exec (.sknp x) s = .next t ∧ Unchanged {} s t ∧
      t.pc = if s.key k = false then s.pc + 4 else s.pc + 2)

/-- The three timer instructions move a byte between `Vx` and a timer; the sound output is on exactly when the value
written to ST is not 0; and no instruction reads ST: with another byte in it, every instruction does the same and leaves
that byte there, but LD_ST_VX, which writes over it and then ends in the very same state (R222 to R224). -/
def Obligations.TimerInstructionsMoveOneByte : Prop :=
  ∀ (x : RegIx) (s : State),
    (encode (.ldVxDt x) = 0xF#4 ++ x ++ 0x07#8 ∧ encode (.ldDtVx x) = 0xF#4 ++ x ++ 0x15#8 ∧
      encode (.ldStVx x) = 0xF#4 ++ x ++ 0x18#8) ∧
    (∃ t, exec (.ldVxDt x) s = .next t ∧ t.reg x = s.dt ∧ t.pc = s.pc + 2 ∧
      Unchanged { regs := fun r => r == x } s t) ∧
    (∃ t, exec (.ldDtVx x) s = .next t ∧ t.dt = s.reg x ∧ t.pc = s.pc + 2 ∧ Unchanged { dt := true } s t) ∧
    (∃ t, exec (.ldStVx x) s = .next t ∧ t.st = s.reg x ∧ t.pc = s.pc + 2 ∧
      (t.soundIsActive = true ↔ s.reg x ≠ 0) ∧ Unchanged { st := true } s t) ∧
    (∀ v : Byte, exec (.ldStVx x) { s with st := v } = exec (.ldStVx x) s) ∧
    ∀ (i : Instr) (t : State) (v : Byte), i.mnemonic ≠ .ldStVx → exec i s = .next t →
      exec i { s with st := v } = .next { t with st := v }

/-- LD_VX_K: with no key down the cycle leaves the whole state as it was; with a key down it stores the number of a
pressed key and goes on. Under the default of KEY_PRIORITY that is the lowest one, and under any other the key it chooses
from the pressed ones (R6, R225; decision D6, log 2). -/
def Obligations.GetKeyWaitsThenStoresAPressedKey : Prop :=
  ∀ (x : RegIx) (s : State),
    encode (.ldVxK x) = 0xF#4 ++ x ++ 0x0A#8 ∧
    ((∀ k, s.key k = false) → exec (.ldVxK x) s = .next s) ∧
    ((∃ k, s.key k = true) → ∃ t k, exec (.ldVxK x) s = .next t ∧ t.pc = s.pc + 2 ∧
      s.key k = true ∧ (t.reg x).toNat = k.toNat ∧ (∀ j, s.key j = true → k.toNat ≤ j.toNat) ∧
      Unchanged { regs := fun r => r == x } s t) ∧
    (∀ k, k ∈ s.pressed ↔ s.key k = true) ∧ s.pressed.Pairwise (· < ·) ∧
    ∀ (p : Params) (rand : Byte),
      ((∀ k, s.key k = false) → execWith p rand (.ldVxK x) s = .next s) ∧
      ∀ least more, s.pressed = least :: more → ∃ t, execWith p rand (.ldVxK x) s = .next t ∧ t.pc = s.pc + 2 ∧
        (t.reg x).toNat = (p.keyPriority least more).toNat ∧ s.key (p.keyPriority least more) = true ∧
        Unchanged { regs := fun r => r == x } s t

/-! ### Transactions of the host (spec/60_exceptions.md, spec/70_reset_and_hazards.md) -/

/-- TICK takes one from each timer that is not zero, and holds a timer at zero (R262; decision D12). -/
def Obligations.TickCountsBothTimersDownToZero : Prop :=
  ∀ (p : Params) (s : State), s.fault = none → ∃ t, serve p .tick s = .next ⟨t, .done⟩ ∧
    t.dt.toNat = s.dt.toNat - 1 ∧ t.st.toNat = s.st.toNat - 1 ∧ t.pc = s.pc ∧
    Unchanged { dt := true, st := true } s t

/-- KEY_WRITE sets that one key; TIMER_SET writes the named timer and TIMER_GET answers it; nothing else changes
(R261, R263). -/
def Obligations.HostWritesKeysAndTimers : Prop :=
  ∀ (p : Params) (s : State), s.fault = none →
    (∀ (k : KeyIx) (b : Bool), ∃ t, serve p (.keyWrite k b) s = .next ⟨t, .done⟩ ∧
      (∀ j, t.key j = if j = k then b else s.key j) ∧ t = { s with keys := t.keys }) ∧
    (∀ v : Byte, serve p (.timerSet .delay v) s = .next ⟨{ s with dt := v }, .done⟩ ∧
      serve p (.timerSet .sound v) s = .next ⟨{ s with st := v }, .done⟩) ∧
    serve p (.timerGet .delay) s = .next ⟨s, .timer s.dt⟩ ∧ serve p (.timerGet .sound) s = .next ⟨s, .timer s.st⟩

/-- LOAD places all of its bytes, or reports OutOfBounds with nothing written and no fault recorded (R260; decision
D17). -/
def Obligations.LoadPlacesBytesOrReports : Prop :=
  ∀ (p : Params) (s : State) (start : Nat) (bytes : List Byte), s.fault = none → s.mem.wf = true →
    (start + bytes.length ≤ 4096 → ∃ t, serve p (.load start bytes) s = .next ⟨t, .done⟩ ∧
      (∀ k (h : k < bytes.length), t.mem.peek (start + k) = bytes[k]) ∧
      (∀ a, a < start ∨ start + bytes.length ≤ a → t.mem.peek a = s.mem.peek a) ∧ t = { s with mem := t.mem }) ∧
    (start + bytes.length > 4096 → serve p (.load start bytes) s = .next ⟨s, .outOfBounds⟩)

/-- The reads answer the current values and change nothing, halted or not: the 2048 cells in row-major order, whether
the sound timer is not 0, and the fault record (R35, R264; decision D16). -/
def Obligations.HostReadsAnswerAndChangeNothing : Prop :=
  ∀ (p : Params) (s : State),
    (∃ cells, serve p .displayRead s = .next ⟨s, .cells cells⟩ ∧ cells.length = 2048 ∧
      ∀ (xx : Fin 64) (yy : Fin 32), cells[yy.val * 64 + xx.val]? = some (Display.cell s.disp xx yy)) ∧
    (∃ b, serve p .soundActive s = .next ⟨s, .active b⟩ ∧ (b = true ↔ s.st ≠ 0)) ∧
    serve p .faultRead s = .next ⟨s, .record s.fault⟩

/-- RESET at any time, halted or not, gives the reset state, and nothing of the time before it survives: the same
transactions after it, from two states whatever they were, end in the same state. Only the model's own count of random
bytes goes on (R290, R291; decision D21, log 1). -/
def Obligations.ResetRestoresTheResetState : Prop :=
  (∀ (p : Params) (s : State), serve p .reset s = .next ⟨{ State.resetFor p with draws := s.draws }, .done⟩) ∧
  ∀ (p : Params) (s s' t : State) (ts : List Transaction), serveAll p (.reset :: ts) s = .next t →
    ∃ t', serveAll p (.reset :: ts) s' = .next t' ∧ t' = { t with draws := t'.draws }

/-- CYCLE with the next free byte and the default parameters is `step`; the byte matters to no cycle but that of a RND,
and the parameters to none but that of a LD_VX_K with several keys down (R6, R129, R225, R259; decisions D6 and D7, log 1,
log 2). -/
def Obligations.CycleTransactionIsStep : Prop :=
  (∀ s t : State, step s = .next t →
    serve Params.default (.cycle (Config.randByte s.draws)) s = .next ⟨t, .done⟩) ∧
  ∀ (p : Params) (s t : State) (rand : Byte), step s = .next t →
    (∀ w i, s.fetch = .ok w → decodeWord w = some i →
      i.isRnd = false ∧ ((∃ x, i = .ldVxK x) → s.pressed.length ≤ 1)) →
    serve p (.cycle rand) s = .next ⟨t, .done⟩
end

