-- ==== Sys2Proof/Laws/Decode.lean ====
section
/-! SUPPORT. Words as four nibbles: the fields of a word put together, and a word taken apart (spec/30_encoding.md
R92). Decoding and encoding are compared through these. -/

namespace Sys2Proof

/-- The six fields of a word given by its nibbles; `NN = {Y, N}` and `NNN = {X, Y, N}` (R92). -/
theorem fieldsOf_nibbles (op x y n : BitVec 4) :
    fieldsOf (op ++ x ++ y ++ n) = ⟨op, x, y, n, y ++ n, x ++ y ++ n⟩ := by
  simp only [fieldsOf, Fields.mk.injEq]
  refine ⟨?_, ?_, ?_, ?_, ?_, ?_⟩ <;>
    · apply BitVec.eq_of_getLsbD_eq
      intro k hk
      simp only [BitVec.getLsbD_extractLsb', BitVec.getLsbD_append]
      rcases k with _ | _ | _ | _ | _ | _ | _ | _ | _ | _ | _ | _ | k <;> simp_all <;> omega

/-- The fields of a word of format A (R94). -/
theorem fieldsOf_op_addr (op : BitVec 4) (nnn : Addr) :
    fieldsOf (op ++ nnn) =
      ⟨op, nnn.extractLsb' 8 4, nnn.extractLsb' 4 4, nnn.extractLsb' 0 4, nnn.extractLsb' 0 8, nnn⟩ := by
  simp only [fieldsOf, Fields.mk.injEq]
  refine ⟨?_, ?_, ?_, ?_, ?_, ?_⟩ <;>
    · apply BitVec.eq_of_getLsbD_eq
      intro k hk
      simp only [BitVec.getLsbD_extractLsb', BitVec.getLsbD_append]
      rcases k with _ | _ | _ | _ | _ | _ | _ | _ | _ | _ | _ | _ | k <;> simp_all <;> omega

/-- The fields of a word of format XI or XF (R94). -/
theorem fieldsOf_op_x_byte (op x : BitVec 4) (nn : Byte) :
    fieldsOf (op ++ x ++ nn) = ⟨op, x, nn.extractLsb' 4 4, nn.extractLsb' 0 4, nn, x ++ nn⟩ := by
  simp only [fieldsOf, Fields.mk.injEq]
  refine ⟨?_, ?_, ?_, ?_, ?_, ?_⟩ <;>
    · apply BitVec.eq_of_getLsbD_eq
      intro k hk
      simp only [BitVec.getLsbD_extractLsb', BitVec.getLsbD_append]
      rcases k with _ | _ | _ | _ | _ | _ | _ | _ | _ | _ | _ | _ | k <;> simp_all <;> omega

/-- Every word is its four nibbles. -/
theorem word_eq_nibbles (w : Word) :
    w = w.extractLsb' 12 4 ++ w.extractLsb' 8 4 ++ w.extractLsb' 4 4 ++ w.extractLsb' 0 4 := by
  apply BitVec.eq_of_getLsbD_eq
  intro k hk
  simp only [BitVec.getLsbD_append, BitVec.getLsbD_extractLsb']
  split_ifs with h1 h2 h3
  · simp [h1]
  · simp only [show k - 4 < 4 by omega, decide_true, Bool.true_and]; congr 1; omega
  · simp only [show k - 4 - 4 < 4 by omega, decide_true, Bool.true_and]; congr 1; omega
  · simp only [show k - 4 - 4 - 4 < 4 by omega, decide_true, Bool.true_and]; congr 1; omega

/-- Every byte is its two nibbles. -/
theorem byte_eq_nibbles (b : Byte) : b = b.extractLsb' 4 4 ++ b.extractLsb' 0 4 := by
  apply BitVec.eq_of_getLsbD_eq
  intro k hk
  simp only [BitVec.getLsbD_append, BitVec.getLsbD_extractLsb']
  split_ifs with h1
  · simp [h1]
  · simp only [show k - 4 < 4 by omega, decide_true, Bool.true_and]; congr 1; omega

/-- Every address field is its three nibbles. -/
theorem addr_eq_nibbles (a : Addr) : a = a.extractLsb' 8 4 ++ a.extractLsb' 4 4 ++ a.extractLsb' 0 4 := by
  apply BitVec.eq_of_getLsbD_eq
  intro k hk
  simp only [BitVec.getLsbD_append, BitVec.getLsbD_extractLsb']
  split_ifs with h1 h2
  · simp [h1]
  · simp only [show k - 4 < 4 by omega, decide_true, Bool.true_and]; congr 1; omega
  · simp only [show k - 4 - 4 < 4 by omega, decide_true, Bool.true_and]; congr 1; omega

/-- A word of format A by its nibbles. -/
theorem op_addr_eq_nibbles (op x y n : BitVec 4) : (op ++ (x ++ y ++ n) : Word) = op ++ x ++ y ++ n := by
  apply BitVec.eq_of_getLsbD_eq
  intro k hk
  simp only [BitVec.getLsbD_append]
  split_ifs <;> first | rfl | omega

/-- A word of format XI or XF by its nibbles. -/
theorem op_x_byte_eq_nibbles (op x y n : BitVec 4) : (op ++ x ++ (y ++ n) : Word) = op ++ x ++ y ++ n := by
  apply BitVec.eq_of_getLsbD_eq
  intro k hk
  simp only [BitVec.getLsbD_append]
  split_ifs <;> first | rfl | omega

/-- The bytes of a word put together again are the word (R67). -/
theorem wordOfBytes_bytes (w : Word) : wordOfBytes (w.extractLsb' 8 8) (w.extractLsb' 0 8) = w := by
  apply BitVec.eq_of_getLsbD_eq
  intro k hk
  simp only [wordOfBytes, BitVec.getLsbD_append, BitVec.getLsbD_extractLsb']
  split_ifs with h1
  · simp [h1]
  · simp only [show k - 8 < 8 by omega, decide_true, Bool.true_and]; congr 1; omega

end Sys2Proof
end

