-- ==== Sys2Proof/Laws/State.lean ====
section
/-! SUPPORT. One lemma per field per named update of State, so that no later proof unfolds a record update. -/

namespace Sys2Proof.Machine

variable (s : State)

/-! ### setReg -/

@[simp] theorem State.setReg_regs (r : RegIx) (v : Byte) : (s.setReg r v).regs = s.regs.set r.toNat v r.isLt := rfl
@[simp] theorem State.setReg_index (r : RegIx) (v : Byte) : (s.setReg r v).index = s.index := rfl
@[simp] theorem State.setReg_pc (r : RegIx) (v : Byte) : (s.setReg r v).pc = s.pc := rfl
@[simp] theorem State.setReg_sp (r : RegIx) (v : Byte) : (s.setReg r v).sp = s.sp := rfl
@[simp] theorem State.setReg_stack (r : RegIx) (v : Byte) : (s.setReg r v).stack = s.stack := rfl
@[simp] theorem State.setReg_dt (r : RegIx) (v : Byte) : (s.setReg r v).dt = s.dt := rfl
@[simp] theorem State.setReg_st (r : RegIx) (v : Byte) : (s.setReg r v).st = s.st := rfl
@[simp] theorem State.setReg_keys (r : RegIx) (v : Byte) : (s.setReg r v).keys = s.keys := rfl
@[simp] theorem State.setReg_disp (r : RegIx) (v : Byte) : (s.setReg r v).disp = s.disp := rfl
@[simp] theorem State.setReg_mem (r : RegIx) (v : Byte) : (s.setReg r v).mem = s.mem := rfl
@[simp] theorem State.setReg_fault (r : RegIx) (v : Byte) : (s.setReg r v).fault = s.fault := rfl
@[simp] theorem State.setReg_draws (r : RegIx) (v : Byte) : (s.setReg r v).draws = s.draws := rfl

/-! ### setIndex -/

@[simp] theorem State.setIndex_regs (v : Word) : (s.setIndex v).regs = s.regs := rfl
@[simp] theorem State.setIndex_index (v : Word) : (s.setIndex v).index = v := rfl
@[simp] theorem State.setIndex_pc (v : Word) : (s.setIndex v).pc = s.pc := rfl
@[simp] theorem State.setIndex_sp (v : Word) : (s.setIndex v).sp = s.sp := rfl
@[simp] theorem State.setIndex_stack (v : Word) : (s.setIndex v).stack = s.stack := rfl
@[simp] theorem State.setIndex_dt (v : Word) : (s.setIndex v).dt = s.dt := rfl
@[simp] theorem State.setIndex_st (v : Word) : (s.setIndex v).st = s.st := rfl
@[simp] theorem State.setIndex_keys (v : Word) : (s.setIndex v).keys = s.keys := rfl
@[simp] theorem State.setIndex_disp (v : Word) : (s.setIndex v).disp = s.disp := rfl
@[simp] theorem State.setIndex_mem (v : Word) : (s.setIndex v).mem = s.mem := rfl
@[simp] theorem State.setIndex_fault (v : Word) : (s.setIndex v).fault = s.fault := rfl
@[simp] theorem State.setIndex_draws (v : Word) : (s.setIndex v).draws = s.draws := rfl
@[simp] theorem State.setIndex_reg (v : Word) (q : RegIx) : (s.setIndex v).reg q = s.reg q := rfl

/-! ### setMem -/

@[simp] theorem State.setMem_regs (m : Memory) : (s.setMem m).regs = s.regs := rfl
@[simp] theorem State.setMem_index (m : Memory) : (s.setMem m).index = s.index := rfl
@[simp] theorem State.setMem_pc (m : Memory) : (s.setMem m).pc = s.pc := rfl
@[simp] theorem State.setMem_sp (m : Memory) : (s.setMem m).sp = s.sp := rfl
@[simp] theorem State.setMem_stack (m : Memory) : (s.setMem m).stack = s.stack := rfl
@[simp] theorem State.setMem_dt (m : Memory) : (s.setMem m).dt = s.dt := rfl
@[simp] theorem State.setMem_st (m : Memory) : (s.setMem m).st = s.st := rfl
@[simp] theorem State.setMem_keys (m : Memory) : (s.setMem m).keys = s.keys := rfl
@[simp] theorem State.setMem_disp (m : Memory) : (s.setMem m).disp = s.disp := rfl
@[simp] theorem State.setMem_mem (m : Memory) : (s.setMem m).mem = m := rfl
@[simp] theorem State.setMem_fault (m : Memory) : (s.setMem m).fault = s.fault := rfl
@[simp] theorem State.setMem_draws (m : Memory) : (s.setMem m).draws = s.draws := rfl
@[simp] theorem State.setMem_reg (m : Memory) (q : RegIx) : (s.setMem m).reg q = s.reg q := rfl

/-! ### jump -/

@[simp] theorem State.jump_regs (p : Word) : (s.jump p).regs = s.regs := rfl
@[simp] theorem State.jump_index (p : Word) : (s.jump p).index = s.index := rfl
@[simp] theorem State.jump_pc (p : Word) : (s.jump p).pc = p := rfl
@[simp] theorem State.jump_sp (p : Word) : (s.jump p).sp = s.sp := rfl
@[simp] theorem State.jump_stack (p : Word) : (s.jump p).stack = s.stack := rfl
@[simp] theorem State.jump_dt (p : Word) : (s.jump p).dt = s.dt := rfl
@[simp] theorem State.jump_st (p : Word) : (s.jump p).st = s.st := rfl
@[simp] theorem State.jump_keys (p : Word) : (s.jump p).keys = s.keys := rfl
@[simp] theorem State.jump_disp (p : Word) : (s.jump p).disp = s.disp := rfl
@[simp] theorem State.jump_mem (p : Word) : (s.jump p).mem = s.mem := rfl
@[simp] theorem State.jump_fault (p : Word) : (s.jump p).fault = s.fault := rfl
@[simp] theorem State.jump_draws (p : Word) : (s.jump p).draws = s.draws := rfl
@[simp] theorem State.jump_reg (p : Word) (q : RegIx) : (s.jump p).reg q = s.reg q := rfl

/-! ### advance -/

@[simp] theorem State.advance_regs : (s.advance).regs = s.regs := rfl
@[simp] theorem State.advance_index : (s.advance).index = s.index := rfl
@[simp] theorem State.advance_pc : (s.advance).pc = s.pc + 2 := rfl
@[simp] theorem State.advance_sp : (s.advance).sp = s.sp := rfl
@[simp] theorem State.advance_stack : (s.advance).stack = s.stack := rfl
@[simp] theorem State.advance_dt : (s.advance).dt = s.dt := rfl
@[simp] theorem State.advance_st : (s.advance).st = s.st := rfl
@[simp] theorem State.advance_keys : (s.advance).keys = s.keys := rfl
@[simp] theorem State.advance_disp : (s.advance).disp = s.disp := rfl
@[simp] theorem State.advance_mem : (s.advance).mem = s.mem := rfl
@[simp] theorem State.advance_fault : (s.advance).fault = s.fault := rfl
@[simp] theorem State.advance_draws : (s.advance).draws = s.draws := rfl
@[simp] theorem State.advance_reg (q : RegIx) : (s.advance).reg q = s.reg q := rfl

/-! ### raise -/

@[simp] theorem State.raise_regs (c : Cause) (w : Option Word) (a : Option Nat) : (s.raise c w a).regs = s.regs := rfl
@[simp] theorem State.raise_index (c : Cause) (w : Option Word) (a : Option Nat) : (s.raise c w a).index = s.index := rfl
@[simp] theorem State.raise_pc (c : Cause) (w : Option Word) (a : Option Nat) : (s.raise c w a).pc = s.pc := rfl
@[simp] theorem State.raise_sp (c : Cause) (w : Option Word) (a : Option Nat) : (s.raise c w a).sp = s.sp := rfl
@[simp] theorem State.raise_stack (c : Cause) (w : Option Word) (a : Option Nat) : (s.raise c w a).stack = s.stack := rfl
@[simp] theorem State.raise_dt (c : Cause) (w : Option Word) (a : Option Nat) : (s.raise c w a).dt = s.dt := rfl
@[simp] theorem State.raise_st (c : Cause) (w : Option Word) (a : Option Nat) : (s.raise c w a).st = s.st := rfl
@[simp] theorem State.raise_keys (c : Cause) (w : Option Word) (a : Option Nat) : (s.raise c w a).keys = s.keys := rfl
@[simp] theorem State.raise_disp (c : Cause) (w : Option Word) (a : Option Nat) : (s.raise c w a).disp = s.disp := rfl
@[simp] theorem State.raise_mem (c : Cause) (w : Option Word) (a : Option Nat) : (s.raise c w a).mem = s.mem := rfl
@[simp] theorem State.raise_fault (c : Cause) (w : Option Word) (a : Option Nat) : (s.raise c w a).fault = some ⟨c, s.pc, w, a⟩ := rfl
@[simp] theorem State.raise_draws (c : Cause) (w : Option Word) (a : Option Nat) : (s.raise c w a).draws = s.draws := rfl
@[simp] theorem State.raise_reg (c : Cause) (w : Option Word) (a : Option Nat) (q : RegIx) : (s.raise c w a).reg q = s.reg q := rfl

/-! ### setDelay -/

@[simp] theorem State.setDelay_regs (v : Byte) : (s.setDelay v).regs = s.regs := rfl
@[simp] theorem State.setDelay_index (v : Byte) : (s.setDelay v).index = s.index := rfl
@[simp] theorem State.setDelay_pc (v : Byte) : (s.setDelay v).pc = s.pc := rfl
@[simp] theorem State.setDelay_sp (v : Byte) : (s.setDelay v).sp = s.sp := rfl
@[simp] theorem State.setDelay_stack (v : Byte) : (s.setDelay v).stack = s.stack := rfl
@[simp] theorem State.setDelay_dt (v : Byte) : (s.setDelay v).dt = v := rfl
@[simp] theorem State.setDelay_st (v : Byte) : (s.setDelay v).st = s.st := rfl
@[simp] theorem State.setDelay_keys (v : Byte) : (s.setDelay v).keys = s.keys := rfl
@[simp] theorem State.setDelay_disp (v : Byte) : (s.setDelay v).disp = s.disp := rfl
@[simp] theorem State.setDelay_mem (v : Byte) : (s.setDelay v).mem = s.mem := rfl
@[simp] theorem State.setDelay_fault (v : Byte) : (s.setDelay v).fault = s.fault := rfl
@[simp] theorem State.setDelay_draws (v : Byte) : (s.setDelay v).draws = s.draws := rfl
@[simp] theorem State.setDelay_reg (v : Byte) (q : RegIx) : (s.setDelay v).reg q = s.reg q := rfl

/-! ### setSound -/

@[simp] theorem State.setSound_regs (v : Byte) : (s.setSound v).regs = s.regs := rfl
@[simp] theorem State.setSound_index (v : Byte) : (s.setSound v).index = s.index := rfl
@[simp] theorem State.setSound_pc (v : Byte) : (s.setSound v).pc = s.pc := rfl
@[simp] theorem State.setSound_sp (v : Byte) : (s.setSound v).sp = s.sp := rfl
@[simp] theorem State.setSound_stack (v : Byte) : (s.setSound v).stack = s.stack := rfl
@[simp] theorem State.setSound_dt (v : Byte) : (s.setSound v).dt = s.dt := rfl
@[simp] theorem State.setSound_st (v : Byte) : (s.setSound v).st = v := rfl
@[simp] theorem State.setSound_keys (v : Byte) : (s.setSound v).keys = s.keys := rfl
@[simp] theorem State.setSound_disp (v : Byte) : (s.setSound v).disp = s.disp := rfl
@[simp] theorem State.setSound_mem (v : Byte) : (s.setSound v).mem = s.mem := rfl
@[simp] theorem State.setSound_fault (v : Byte) : (s.setSound v).fault = s.fault := rfl
@[simp] theorem State.setSound_draws (v : Byte) : (s.setSound v).draws = s.draws := rfl
@[simp] theorem State.setSound_reg (v : Byte) (q : RegIx) : (s.setSound v).reg q = s.reg q := rfl

/-! ### countDraw -/

@[simp] theorem State.countDraw_regs : (s.countDraw).regs = s.regs := rfl
@[simp] theorem State.countDraw_index : (s.countDraw).index = s.index := rfl
@[simp] theorem State.countDraw_pc : (s.countDraw).pc = s.pc := rfl
@[simp] theorem State.countDraw_sp : (s.countDraw).sp = s.sp := rfl
@[simp] theorem State.countDraw_stack : (s.countDraw).stack = s.stack := rfl
@[simp] theorem State.countDraw_dt : (s.countDraw).dt = s.dt := rfl
@[simp] theorem State.countDraw_st : (s.countDraw).st = s.st := rfl
@[simp] theorem State.countDraw_keys : (s.countDraw).keys = s.keys := rfl
@[simp] theorem State.countDraw_disp : (s.countDraw).disp = s.disp := rfl
@[simp] theorem State.countDraw_mem : (s.countDraw).mem = s.mem := rfl
@[simp] theorem State.countDraw_fault : (s.countDraw).fault = s.fault := rfl
@[simp] theorem State.countDraw_draws : (s.countDraw).draws = s.draws + 1 := rfl
@[simp] theorem State.countDraw_reg (q : RegIx) : (s.countDraw).reg q = s.reg q := rfl

/-! ### setKey -/

@[simp] theorem State.setKey_regs (k : KeyIx) (b : Bool) : (s.setKey k b).regs = s.regs := rfl
@[simp] theorem State.setKey_index (k : KeyIx) (b : Bool) : (s.setKey k b).index = s.index := rfl
@[simp] theorem State.setKey_pc (k : KeyIx) (b : Bool) : (s.setKey k b).pc = s.pc := rfl
@[simp] theorem State.setKey_sp (k : KeyIx) (b : Bool) : (s.setKey k b).sp = s.sp := rfl
@[simp] theorem State.setKey_stack (k : KeyIx) (b : Bool) : (s.setKey k b).stack = s.stack := rfl
@[simp] theorem State.setKey_dt (k : KeyIx) (b : Bool) : (s.setKey k b).dt = s.dt := rfl
@[simp] theorem State.setKey_st (k : KeyIx) (b : Bool) : (s.setKey k b).st = s.st := rfl
@[simp] theorem State.setKey_keys (k : KeyIx) (b : Bool) : (s.setKey k b).keys = s.keys.set k.toNat b k.isLt := rfl
@[simp] theorem State.setKey_disp (k : KeyIx) (b : Bool) : (s.setKey k b).disp = s.disp := rfl
@[simp] theorem State.setKey_mem (k : KeyIx) (b : Bool) : (s.setKey k b).mem = s.mem := rfl
@[simp] theorem State.setKey_fault (k : KeyIx) (b : Bool) : (s.setKey k b).fault = s.fault := rfl
@[simp] theorem State.setKey_draws (k : KeyIx) (b : Bool) : (s.setKey k b).draws = s.draws := rfl
@[simp] theorem State.setKey_reg (k : KeyIx) (b : Bool) (q : RegIx) : (s.setKey k b).reg q = s.reg q := rfl

/-! ### setResultAndFlag -/

@[simp] theorem State.setResultAndFlag_index (x : RegIx) (v : Byte) (f : Bool) : (s.setResultAndFlag x v f).index = s.index := rfl
@[simp] theorem State.setResultAndFlag_pc (x : RegIx) (v : Byte) (f : Bool) : (s.setResultAndFlag x v f).pc = s.pc := rfl
@[simp] theorem State.setResultAndFlag_sp (x : RegIx) (v : Byte) (f : Bool) : (s.setResultAndFlag x v f).sp = s.sp := rfl
@[simp] theorem State.setResultAndFlag_stack (x : RegIx) (v : Byte) (f : Bool) : (s.setResultAndFlag x v f).stack = s.stack := rfl
@[simp] theorem State.setResultAndFlag_dt (x : RegIx) (v : Byte) (f : Bool) : (s.setResultAndFlag x v f).dt = s.dt := rfl
@[simp] theorem State.setResultAndFlag_st (x : RegIx) (v : Byte) (f : Bool) : (s.setResultAndFlag x v f).st = s.st := rfl
@[simp] theorem State.setResultAndFlag_keys (x : RegIx) (v : Byte) (f : Bool) : (s.setResultAndFlag x v f).keys = s.keys := rfl
@[simp] theorem State.setResultAndFlag_disp (x : RegIx) (v : Byte) (f : Bool) : (s.setResultAndFlag x v f).disp = s.disp := rfl
@[simp] theorem State.setResultAndFlag_mem (x : RegIx) (v : Byte) (f : Bool) : (s.setResultAndFlag x v f).mem = s.mem := rfl
@[simp] theorem State.setResultAndFlag_fault (x : RegIx) (v : Byte) (f : Bool) : (s.setResultAndFlag x v f).fault = s.fault := rfl
@[simp] theorem State.setResultAndFlag_draws (x : RegIx) (v : Byte) (f : Bool) : (s.setResultAndFlag x v f).draws = s.draws := rfl

/-! ### setCanvas -/

@[simp] theorem State.setCanvas_index (c : Canvas) : (s.setCanvas c).index = s.index := rfl
@[simp] theorem State.setCanvas_pc (c : Canvas) : (s.setCanvas c).pc = s.pc := rfl
@[simp] theorem State.setCanvas_sp (c : Canvas) : (s.setCanvas c).sp = s.sp := rfl
@[simp] theorem State.setCanvas_stack (c : Canvas) : (s.setCanvas c).stack = s.stack := rfl
@[simp] theorem State.setCanvas_dt (c : Canvas) : (s.setCanvas c).dt = s.dt := rfl
@[simp] theorem State.setCanvas_st (c : Canvas) : (s.setCanvas c).st = s.st := rfl
@[simp] theorem State.setCanvas_keys (c : Canvas) : (s.setCanvas c).keys = s.keys := rfl
@[simp] theorem State.setCanvas_disp (c : Canvas) : (s.setCanvas c).disp = c.disp := rfl
@[simp] theorem State.setCanvas_mem (c : Canvas) : (s.setCanvas c).mem = s.mem := rfl
@[simp] theorem State.setCanvas_fault (c : Canvas) : (s.setCanvas c).fault = s.fault := rfl
@[simp] theorem State.setCanvas_draws (c : Canvas) : (s.setCanvas c).draws = s.draws := rfl

/-! ### tick -/

@[simp] theorem State.tick_regs : (s.tick).regs = s.regs := rfl
@[simp] theorem State.tick_index : (s.tick).index = s.index := rfl
@[simp] theorem State.tick_pc : (s.tick).pc = s.pc := rfl
@[simp] theorem State.tick_sp : (s.tick).sp = s.sp := rfl
@[simp] theorem State.tick_stack : (s.tick).stack = s.stack := rfl
@[simp] theorem State.tick_dt : (s.tick).dt = decrement s.dt := rfl
@[simp] theorem State.tick_st : (s.tick).st = decrement s.st := rfl
@[simp] theorem State.tick_keys : (s.tick).keys = s.keys := rfl
@[simp] theorem State.tick_disp : (s.tick).disp = s.disp := rfl
@[simp] theorem State.tick_mem : (s.tick).mem = s.mem := rfl
@[simp] theorem State.tick_fault : (s.tick).fault = s.fault := rfl
@[simp] theorem State.tick_draws : (s.tick).draws = s.draws := rfl
@[simp] theorem State.tick_reg (q : RegIx) : (s.tick).reg q = s.reg q := rfl

/-! ### The two writes of registers, read back -/

@[simp] theorem State.setReg_reg_same (r : RegIx) (v : Byte) : (s.setReg r v).reg r = v := by
  simp [State.reg, State.setReg]

theorem State.setReg_reg (r q : RegIx) (v : Byte) : (s.setReg r v).reg q = if q = r then v else s.reg q := by
  by_cases h : q = r
  · subst h; simp
  · have : r.toNat ≠ q.toNat := fun e => h (BitVec.eq_of_toNat_eq e.symm)
    simp [State.reg, State.setReg, h, Vector.getElem_set_ne, this]

@[simp] theorem State.setReg_reg_other {r q : RegIx} (h : q ≠ r) (v : Byte) : (s.setReg r v).reg q = s.reg q := by
  rw [State.setReg_reg, if_neg h]

/-- The flag wins where `X` is 15 (R123). -/
theorem State.setResultAndFlag_reg (x q : RegIx) (v : Byte) (f : Bool) :
    (s.setResultAndFlag x v f).reg q = if q = vF then flagByte f else if q = x then v else s.reg q := by
  simp only [State.setResultAndFlag, State.setReg_reg]

theorem State.setCanvas_reg (c : Canvas) (q : RegIx) :
    (s.setCanvas c).reg q = if q = vF then flagByte c.collision else s.reg q := by
  simp only [State.setCanvas, State.setReg_reg]; rfl

/-- A step's advance, with a taken skip's two more (R143). -/
theorem State.skipIf_eq (c : Bool) : s.skipIf c = s.jump (if c then s.pc + 4 else s.pc + 2) := by
  cases c
  · rfl
  · simp [State.skipIf, State.advance, State.jump, BitVec.add_assoc]

end Sys2Proof.Machine
end

