-- ==== Sys2Proof/Laws/Display.lean ====
section
/-! SUPPORT. What drawing does to a cell and to the collision flag, loop by loop (spec/44_display.md R211). Within one
draw no cell is toggled twice, so each loop is a set of cells that change once. -/

namespace Sys2Proof.Machine

/-! ### One cell -/

theorem Display.cell_toggle (d : Display) (x x' : Fin 64) (y y' : Fin 32) :
    (d.toggle x y).cell x' y' = if x = x' ∧ y = y' then !d.cell x' y' else d.cell x' y' := by
  by_cases hy : y = y' <;> by_cases hx : x = x' <;>
    simp_all [Display.toggle, Display.cell, Fin.ext_iff]

@[simp] theorem Display.cell_clear (x : Fin 64) (y : Fin 32) : Display.clear.cell x y = false := by
  simp [Display.clear, Display.cell]

theorem wrapCol_eq_iff (n : Nat) (x : Fin 64) : wrapCol n = x ↔ n % 64 = x.val := by
  simp [wrapCol, Fin.ext_iff]

theorem wrapRow_eq_iff (n : Nat) (y : Fin 32) : wrapRow n = y ↔ n % 32 = y.val := by
  simp [wrapRow, Fin.ext_iff]

theorem Canvas.plot_cell (c : Canvas) (x x' : Fin 64) (y y' : Fin 32) :
    (c.plot x y).disp.cell x' y' = if x = x' ∧ y = y' then !c.disp.cell x' y' else c.disp.cell x' y' :=
  Display.cell_toggle _ _ _ _ _

/-! ### One sprite row -/

/-- The inner loop over bit numbers below 64, all different: a cell of the row changes where a set bit falls on it. -/
theorem Canvas.drawBits_cell (vx : Nat) (yy : Fin 32) (row : Byte) (x' : Fin 64) (y' : Fin 32) :
    ∀ (is : List Nat) (c : Canvas), is.Nodup → (∀ i ∈ is, i < 64) →
      (c.drawBits vx yy row is).disp.cell x' y' =
        if yy = y' ∧ ∃ i ∈ is, spriteBit row i = true ∧ wrapCol (vx + i) = x'
        then !c.disp.cell x' y' else c.disp.cell x' y'
  | [], c, _, _ => by simp [Canvas.drawBits]
  | i :: is, c, hn, hl => by
    have hn' := List.nodup_cons.1 hn
    rw [Canvas.drawBits, Canvas.drawBits_cell vx yy row x' y' is _ hn'.2 (fun k hk => hl k (List.mem_cons_of_mem _ hk))]
    by_cases hb : spriteBit row i = true
    · simp only [hb, ↓reduceIte, Canvas.plot_cell]
      by_cases hy : yy = y'
      · by_cases hx : wrapCol (vx + i) = x'
        · have hno : ¬ ∃ k ∈ is, spriteBit row k = true ∧ wrapCol (vx + k) = x' := by
            rintro ⟨k, hk, _, he⟩
            have h1 := hl i List.mem_cons_self
            have h2 := hl k (List.mem_cons_of_mem _ hk)
            rw [wrapCol_eq_iff] at hx he
            have : k = i := by omega
            exact hn'.1 (this ▸ hk)
          rw [if_neg (fun h => hno h.2), if_pos ⟨hx, hy⟩,
            if_pos ⟨hy, i, List.mem_cons_self, hb, hx⟩]
        · simp [hy, hx]
      · simp [hy]
    · simp [hb]

/-- The inner loop's collision flag: some set bit falls on a cell that was on. -/
theorem Canvas.drawBits_collision (vx : Nat) (yy : Fin 32) (row : Byte) :
    ∀ (is : List Nat) (c : Canvas), is.Nodup → (∀ i ∈ is, i < 64) →
      ((c.drawBits vx yy row is).collision = true ↔
        c.collision = true ∨ ∃ i ∈ is, spriteBit row i = true ∧ c.disp.cell (wrapCol (vx + i)) yy = true)
  | [], c, _, _ => by simp [Canvas.drawBits]
  | i :: is, c, hn, hl => by
    have hn' := List.nodup_cons.1 hn
    rw [Canvas.drawBits, Canvas.drawBits_collision vx yy row is _ hn'.2 (fun k hk => hl k (List.mem_cons_of_mem _ hk))]
    by_cases hb : spriteBit row i = true
    · simp only [hb, ↓reduceIte]
      have hcell : ∀ k ∈ is, (c.plot (wrapCol (vx + i)) yy).disp.cell (wrapCol (vx + k)) yy
          = c.disp.cell (wrapCol (vx + k)) yy := by
        intro k hk
        rw [Canvas.plot_cell, if_neg]
        rintro ⟨he, _⟩
        have h1 := hl i List.mem_cons_self
        have h2 := hl k (List.mem_cons_of_mem _ hk)
        simp only [wrapCol, Fin.mk.injEq] at he
        have : k = i := by omega
        exact hn'.1 (this ▸ hk)
      have : (c.plot (wrapCol (vx + i)) yy).collision = true ↔
          c.collision = true ∨ c.disp.cell (wrapCol (vx + i)) yy = true := by simp [Canvas.plot]
      rw [this]
      constructor
      · rintro ((h | h) | ⟨k, hk, hbk, h⟩)
        · exact .inl h
        · exact .inr ⟨i, List.mem_cons_self, hb, h⟩
        · exact .inr ⟨k, List.mem_cons_of_mem _ hk, hbk, hcell k hk ▸ h⟩
      · rintro (h | ⟨k, hk, hbk, h⟩)
        · exact .inl (.inl h)
        · rcases List.mem_cons.1 hk with rfl | hk
          · exact .inl (.inr h)
          · exact .inr ⟨k, hk, hbk, (hcell k hk).symm ▸ h⟩
    · simp [hb]

/-! ### The whole sprite -/

/-- Bit `i` of sprite row `j` falls on a cell. -/
def spriteHits (vx vy : Nat) (rows : List Byte) (x' : Fin 64) (y' : Fin 32) : Prop :=
  ∃ j, ∃ h : j < rows.length, ∃ i < 8, spriteBit rows[j] i = true ∧ wrapCol (vx + i) = x' ∧ wrapRow (vy + j) = y'

theorem mem_bits (i : Nat) : i ∈ [0, 1, 2, 3, 4, 5, 6, 7] ↔ i < 8 := by
  simp only [List.mem_cons, List.not_mem_nil, or_false]; omega

theorem spriteHits_nil (vx y : Nat) (x' : Fin 64) (y' : Fin 32) : ¬ spriteHits vx y [] x' y' := by
  rintro ⟨j, h, _⟩
  exact absurd h (Nat.not_lt_zero j)

theorem spriteHits_cons (vx y : Nat) (row : Byte) (rows : List Byte) (x' : Fin 64) (y' : Fin 32) :
    spriteHits vx y (row :: rows) x' y' ↔
      (wrapRow y = y' ∧ ∃ i ∈ [0, 1, 2, 3, 4, 5, 6, 7], spriteBit row i = true ∧ wrapCol (vx + i) = x') ∨
      spriteHits vx (y + 1) rows x' y' := by
  constructor
  · rintro ⟨j, hj, i, hi, hb, hx, hy⟩
    cases j with
    | zero => exact .inl ⟨hy, i, (mem_bits i).2 hi, hb, hx⟩
    | succ j =>
      exact .inr ⟨j, by simpa using hj, i, hi, hb, hx, by rw [← hy]; congr 1; omega⟩
  · rintro (⟨hy, i, hi, hb, hx⟩ | ⟨j, hj, i, hi, hb, hx, hy⟩)
    · exact ⟨0, by simp, i, (mem_bits i).1 hi, hb, hx, hy⟩
    · exact ⟨j + 1, by simpa using hj, i, hi, hb, hx, by rw [← hy]; congr 1; omega⟩

/-- Rows further down never meet this one again (at most 32 of them). -/
theorem spriteHits_later {vx y : Nat} {rows : List Byte} {x' : Fin 64} {y' : Fin 32} (hl : rows.length < 32)
    (h : spriteHits vx (y + 1) rows x' y') : wrapRow y ≠ y' := by
  obtain ⟨j, hj, _, _, _, _, hy⟩ := h
  rw [wrapRow_eq_iff] at hy
  intro h'
  rw [wrapRow_eq_iff] at h'
  omega

open Classical in
/-- A draw changes exactly the cells a set bit falls on (R211). -/
theorem Canvas.drawRows_cell (vx : Nat) (x' : Fin 64) (y' : Fin 32) :
    ∀ (rows : List Byte) (y : Nat) (c : Canvas), rows.length ≤ 32 →
      (c.drawRows vx y rows).disp.cell x' y' =
        if spriteHits vx y rows x' y' then !c.disp.cell x' y' else c.disp.cell x' y'
  | [], y, c, _ => by rw [if_neg (spriteHits_nil vx y x' y'), Canvas.drawRows]
  | row :: rows, y, c, hl => by
    simp only [List.length_cons] at hl
    rw [Canvas.drawRows, Canvas.drawRows_cell vx x' y' rows (y + 1) _ (by omega),
      Canvas.drawBits_cell _ _ _ _ _ _ _ (by decide) (by decide)]
    by_cases h2 : spriteHits vx (y + 1) rows x' y'
    · have h1 := spriteHits_later (by omega) h2
      rw [if_pos h2, if_neg (fun h => h1 h.1), if_pos ((spriteHits_cons ..).2 (.inr h2))]
    · rw [if_neg h2]
      by_cases h1 : wrapRow y = y' ∧ ∃ i ∈ [0, 1, 2, 3, 4, 5, 6, 7], spriteBit row i = true ∧ wrapCol (vx + i) = x'
      · rw [if_pos h1, if_pos ((spriteHits_cons ..).2 (.inl h1))]
      · rw [if_neg h1, if_neg (fun h => ((spriteHits_cons ..).1 h).elim h1 h2)]

/-- The collision flag of a draw: some set bit falls on a cell that was on before it (R211). -/
theorem Canvas.drawRows_collision (vx : Nat) :
    ∀ (rows : List Byte) (y : Nat) (c : Canvas), rows.length ≤ 32 →
      ((c.drawRows vx y rows).collision = true ↔
        c.collision = true ∨ ∃ x' y', spriteHits vx y rows x' y' ∧ c.disp.cell x' y' = true)
  | [], y, c, _ => by
    simp only [Canvas.drawRows, iff_self_or]
    rintro ⟨x', y', h, _⟩
    exact absurd h (spriteHits_nil vx y x' y')
  | row :: rows, y, c, hl => by
    simp only [List.length_cons] at hl
    have hkeep : ∀ x' y', spriteHits vx (y + 1) rows x' y' →
        (c.drawBits vx (wrapRow y) row [0, 1, 2, 3, 4, 5, 6, 7]).disp.cell x' y' = c.disp.cell x' y' := by
      intro x' y' h
      rw [Canvas.drawBits_cell _ _ _ _ _ _ _ (by decide) (by decide),
        if_neg (fun h' => spriteHits_later (by omega) h h'.1)]
    rw [Canvas.drawRows, Canvas.drawRows_collision vx rows (y + 1) _ (by omega),
      Canvas.drawBits_collision _ _ _ _ _ (by decide) (by decide)]
    constructor
    · rintro ((h | ⟨i, hi, hb, h⟩) | ⟨x', y', h, hc⟩)
      · exact .inl h
      · exact .inr ⟨_, _, (spriteHits_cons ..).2 (.inl ⟨rfl, i, hi, hb, rfl⟩), h⟩
      · exact .inr ⟨x', y', (spriteHits_cons ..).2 (.inr h), hkeep x' y' h ▸ hc⟩
    · rintro (h | ⟨x', y', h, hc⟩)
      · exact .inl (.inl h)
      · rcases (spriteHits_cons ..).1 h with ⟨rfl, i, hi, hb, rfl⟩ | h
        · exact .inl (.inr ⟨i, hi, hb, hc⟩)
        · exact .inr ⟨x', y', h, (hkeep x' y' h).symm ▸ hc⟩

end Sys2Proof.Machine
end

