-- ==== Sys2Proof/Laws/Operands.lean ====
section
/-! SUPPORT. The numbers that operand forms and flags stand for. -/

namespace Sys2Proof.Machine

theorem zext16_toNat (nnn : Addr) : (zext16 nnn).toNat = nnn.toNat := by
  have := nnn.isLt
  simp [zext16, BitVec.toNat_setWidth]; omega

/-- The target of jump-with-offset is the exact sum, at most 0x10FE (R147). -/
theorem offsetTarget_toNat (nnn : Addr) (b : Byte) : (offsetTarget nnn b).toNat = nnn.toNat + b.toNat := by
  have := nnn.isLt
  have := b.isLt
  simp only [offsetTarget, BitVec.toNat_add, zext16_toNat, BitVec.toNat_setWidth]
  omega

/-- The low nibble of a byte (R192, R220). -/
theorem and_low_nibble_toNat (a : Byte) : (a &&& 0x0F#8).toNat = a.toNat % 16 := by
  rw [BitVec.toNat_and]
  exact Nat.and_two_pow_sub_one_eq_mod a.toNat 4

theorem keyIndex_toNat (a : Byte) : (keyIndex a).toNat = a.toNat % 16 := by
  rw [keyIndex, BitVec.toNat_setWidth, show (a &&& 0x0F).toNat = a.toNat % 16 from and_low_nibble_toNat a]
  omega

theorem glyphAddress_toNat (a : Byte) : (glyphAddress a).toNat = a.toNat % 16 * 5 := by
  have h := and_low_nibble_toNat a
  simp only [glyphAddress, BitVec.toNat_ofNat]
  rw [show (a &&& 0x0F).toNat = a.toNat % 16 from h]
  omega

/-- add-to-index, as numbers, where `I` is within 12 bits (R191). -/
theorem indexPlusStep_toNat {v : Word} (h : v.toNat ≤ 0x0FFF) : (indexPlusStep v).toNat = (v.toNat + 8) % 4096 := by
  have hand : (v.toNat + 8) &&& 0x0FFF = (v.toNat + 8) % 4096 := Nat.and_two_pow_sub_one_eq_mod _ 12
  simp only [indexPlusStep, indexOverflow, Config.indexStep, Config.indexMask, decide_eq_true_eq]
  split_ifs with c
  · rw [BitVec.toNat_ofNat, hand]; omega
  · rw [BitVec.toNat_ofNat]; omega

/-- add-to-index stays within 12 bits, whatever `I` was (R25). -/
theorem indexPlusStep_le (v : Word) : (indexPlusStep v).toNat ≤ 0x0FFF := by
  simp only [indexPlusStep, indexOverflow, Config.indexStep, Config.indexMask, decide_eq_true_eq]
  split_ifs with c
  · rw [BitVec.toNat_ofNat]
    exact (Nat.mod_le _ _).trans Nat.and_le_right
  · rw [BitVec.toNat_ofNat]; omega

@[simp] theorem bcdDigits_length (a : Byte) : (bcdDigits a).length = 3 := rfl

@[simp] theorem flagByte_true : flagByte true = 1 := rfl
@[simp] theorem flagByte_false : flagByte false = 0 := rfl

theorem flagByte_eq (b : Bool) : flagByte b = if b = true then 1 else 0 := rfl

end Sys2Proof.Machine
end

