-- ==== Sys2Proof/Laws/Memory.lean ====
section
/-! SUPPORT. What the memory operations do: read back, elsewhere unchanged, canonical form kept
(spec/20_memory.md R61 to R65, spec/43_index_memory.md R194). -/

namespace Sys2Proof.Machine

/-! ### One byte -/

theorem Memory.wfFrom_mono {lo lo' : Nat} (h : lo' ≤ lo) : ∀ {m : Memory}, m.wfFrom lo = true → m.wfFrom lo' = true
  | [], _ => rfl
  | (k, v) :: m, hw => by
    simp only [Memory.wfFrom, Bool.and_eq_true, decide_eq_true_eq] at hw ⊢
    exact ⟨⟨⟨h.trans hw.1.1.1, hw.1.1.2⟩, hw.1.2⟩, hw.2⟩

/-- An address below every listed one reads as the reset contents. -/
theorem Memory.peek_below {lo a : Nat} (h : a < lo) : ∀ {m : Memory}, m.wfFrom lo = true → m.peek a = initialByte a
  | [], _ => rfl
  | (k, v) :: m, hw => by
    simp only [Memory.wfFrom, Bool.and_eq_true, decide_eq_true_eq] at hw
    rw [Memory.peek, if_neg (by omega)]
    exact Memory.peek_below (lo := k + 1) (by omega) hw.2

theorem Memory.peek_poke_other {a b : Nat} (h : b ≠ a) (v : Byte) : ∀ m : Memory, (m.poke a v).peek b = m.peek b
  | [] => by
    by_cases hv : v = initialByte a <;> simp [Memory.poke, Memory.peek, hv, h]
  | (k, u) :: m => by
    unfold Memory.poke
    split_ifs with h1 h2 h3 h4
    · rfl
    · simp [Memory.peek, h]
    · subst h3; simp [Memory.peek, h]
    · subst h3; simp [Memory.peek, h]
    · simp only [Memory.peek, Memory.peek_poke_other h v m]

theorem Memory.peek_poke_same_from {lo a : Nat} (v : Byte) :
    ∀ {m : Memory}, m.wfFrom lo = true → (m.poke a v).peek a = v
  | [], _ => by
    by_cases hv : v = initialByte a <;> simp [Memory.poke, Memory.peek, hv]
  | (k, u) :: m, hw => by
    simp only [Memory.wfFrom, Bool.and_eq_true, decide_eq_true_eq] at hw
    unfold Memory.poke
    split_ifs with h1 h2 h3 h4
    · rw [Memory.peek, if_neg (by omega), Memory.peek_below (lo := k + 1) (by omega) hw.2, h2]
    · simp [Memory.peek]
    · subst h3; rw [Memory.peek_below (lo := a + 1) (by omega) hw.2, h4]
    · simp [Memory.peek]
    · simp only [Memory.peek, if_neg h3, Memory.peek_poke_same_from v hw.2]

theorem Memory.peek_poke_same {m : Memory} (hw : m.wf = true) (a : Nat) (v : Byte) : (m.poke a v).peek a = v :=
  Memory.peek_poke_same_from v hw

theorem Memory.poke_wfFrom {lo a : Nat} (ha : a < 4096) (v : Byte) :
    ∀ {m : Memory}, lo ≤ a → m.wfFrom lo = true → (m.poke a v).wfFrom lo = true
  | [], hl, _ => by
    by_cases hv : v = initialByte a
    · simp [Memory.poke, Memory.wfFrom, hv]
    · simp only [Memory.poke, if_neg hv, Memory.wfFrom]; simp [hl, ha, hv]
  | (k, u) :: m, hl, hw => by
    have hw' := hw
    simp only [Memory.wfFrom, Bool.and_eq_true, decide_eq_true_eq] at hw
    obtain ⟨⟨⟨h1, h2⟩, h3⟩, h4⟩ := hw
    unfold Memory.poke
    split_ifs with c1 c2 c3 c4
    · exact hw'
    · simp [Memory.wfFrom, hl, ha, c2, h2, h3, h4, Nat.succ_le_of_lt c1]
    · exact Memory.wfFrom_mono (by omega) h4
    · subst c3; simp [Memory.wfFrom, h1, h2, c4, h4]
    · simp only [Memory.wfFrom, Bool.and_eq_true, decide_eq_true_eq]
      exact ⟨⟨⟨h1, h2⟩, h3⟩, Memory.poke_wfFrom ha v (by omega) h4⟩

/-- A write below 4096 keeps the canonical form. -/
theorem Memory.poke_wf {m : Memory} (hw : m.wf = true) {a : Nat} (ha : a < 4096) (v : Byte) :
    (m.poke a v).wf = true :=
  Memory.poke_wfFrom ha v (Nat.zero_le a) hw

/-! ### Runs of bytes -/

@[simp] theorem Memory.peekMany_length (m : Memory) : ∀ (a n : Nat), (m.peekMany a n).length = n
  | _, 0 => rfl
  | a, n + 1 => by simp [Memory.peekMany, Memory.peekMany_length m (a + 1) n]

theorem Memory.peekMany_getElem? (m : Memory) :
    ∀ (n a k : Nat), (m.peekMany a n)[k]? = if k < n then some (m.peek (a + k)) else none
  | 0, a, k => by simp [Memory.peekMany]
  | n + 1, a, 0 => by simp [Memory.peekMany]
  | n + 1, a, k + 1 => by
    simp only [Memory.peekMany, List.getElem?_cons_succ, Memory.peekMany_getElem? m n (a + 1) k]
    simp [Nat.add_assoc, Nat.add_comm 1 k]

theorem Memory.pokeMany_wf : ∀ {bs : List Byte} {m : Memory} {a : Nat}, m.wf = true →
    a + bs.length ≤ 4096 → (m.pokeMany a bs).wf = true
  | [], _, _, hw, _ => hw
  | b :: bs, m, a, hw, h => by
    simp only [List.length_cons] at h
    have hw' : (m.poke a b).wf = true := Memory.poke_wf hw (by omega) b
    exact Memory.pokeMany_wf (m := m.poke a b) (a := a + 1) hw' (by omega)

/-- Bytes outside the run are as before. -/
theorem Memory.peek_pokeMany_other {c : Nat} : ∀ {bs : List Byte} {m : Memory} {a : Nat},
    c < a ∨ a + bs.length ≤ c → (m.pokeMany a bs).peek c = m.peek c
  | [], _, _, _ => rfl
  | b :: bs, m, a, h => by
    simp only [List.length_cons] at h
    rw [Memory.pokeMany, Memory.peek_pokeMany_other (by omega), Memory.peek_poke_other (by omega)]

/-- Each byte of the run is at its place. -/
theorem Memory.peek_pokeMany {k : Nat} : ∀ {bs : List Byte} {m : Memory} {a : Nat}, m.wf = true →
    a + bs.length ≤ 4096 → (h : k < bs.length) → (m.pokeMany a bs).peek (a + k) = bs[k]
  | b :: bs, m, a, hw, hl, h => by
    simp only [List.length_cons] at hl
    have hw' : (m.poke a b).wf = true := Memory.poke_wf hw (by omega) b
    rw [Memory.pokeMany]
    cases k with
    | zero =>
      rw [Memory.peek_pokeMany_other (by omega)]; exact Memory.peek_poke_same hw a b
    | succ k =>
      have := Memory.peek_pokeMany (k := k) (bs := bs) (a := a + 1) hw' (by omega) (by simpa using h)
      rw [show a + (k + 1) = a + 1 + k by omega, this]; rfl

/-! ### The accesses of one instruction -/

/-- An access touches nothing out of bounds, or reports the lowest such address of its range (R194). -/
theorem firstOutOfBounds_cases (base count : Nat) :
    (firstOutOfBounds base count = none ∧ (count = 0 ∨ base + count ≤ 4096)) ∨
    (firstOutOfBounds base count = some (max base 4096) ∧ 1 ≤ count ∧ 4096 < base + count) := by
  simp only [firstOutOfBounds, Config.memSize]
  split_ifs with h
  · exact .inr ⟨rfl, h.1, by omega⟩
  · exact .inl ⟨rfl, by omega⟩

theorem firstOutOfBounds_none {base count : Nat} (h : count = 0 ∨ base + count ≤ 4096) :
    firstOutOfBounds base count = none := by
  rcases firstOutOfBounds_cases base count with ⟨e, _⟩ | ⟨_, h1, h2⟩
  · exact e
  · omega

theorem firstOutOfBounds_some {base count : Nat} (h1 : 1 ≤ count) (h2 : 4096 < base + count) :
    firstOutOfBounds base count = some (max base 4096) := by
  rcases firstOutOfBounds_cases base count with ⟨_, h⟩ | ⟨e, _⟩
  · omega
  · exact e

theorem Memory.readRange_ok (m : Memory) {base count : Nat} (h : count = 0 ∨ base + count ≤ 4096) :
    m.readRange base count = .ok (m.peekMany base count) := by
  simp [Memory.readRange, firstOutOfBounds_none h]

theorem Memory.readRange_error (m : Memory) {base count : Nat} (h1 : 1 ≤ count) (h2 : 4096 < base + count) :
    m.readRange base count = .error (max base 4096) := by
  simp only [Memory.readRange, firstOutOfBounds_some h1 h2]

theorem Memory.writeRange_ok (m : Memory) {base : Nat} {bytes : List Byte}
    (h : bytes.length = 0 ∨ base + bytes.length ≤ 4096) : m.writeRange base bytes = .ok (m.pokeMany base bytes) := by
  simp [Memory.writeRange, firstOutOfBounds_none h]

theorem Memory.writeRange_error (m : Memory) {base : Nat} {bytes : List Byte} (h1 : 1 ≤ bytes.length)
    (h2 : 4096 < base + bytes.length) : m.writeRange base bytes = .error (max base 4096) := by
  simp only [Memory.writeRange, firstOutOfBounds_some h1 h2]

/-- Everything a range write can answer. -/
theorem Memory.writeRange_cases (m : Memory) (base : Nat) (bytes : List Byte) :
    (m.writeRange base bytes = .ok (m.pokeMany base bytes) ∧ (bytes.length = 0 ∨ base + bytes.length ≤ 4096)) ∨
    (m.writeRange base bytes = .error (max base 4096) ∧ 1 ≤ bytes.length ∧ 4096 < base + bytes.length) := by
  rcases firstOutOfBounds_cases base bytes.length with ⟨_, h⟩ | ⟨_, h1, h2⟩
  · exact .inl ⟨Memory.writeRange_ok m h, h⟩
  · exact .inr ⟨Memory.writeRange_error m h1 h2, h1, h2⟩

/-- Everything a range read can answer. -/
theorem Memory.readRange_cases (m : Memory) (base count : Nat) :
    (m.readRange base count = .ok (m.peekMany base count) ∧ (count = 0 ∨ base + count ≤ 4096)) ∨
    (m.readRange base count = .error (max base 4096) ∧ 1 ≤ count ∧ 4096 < base + count) := by
  rcases firstOutOfBounds_cases base count with ⟨_, h⟩ | ⟨_, h1, h2⟩
  · exact .inl ⟨Memory.readRange_ok m h, h⟩
  · exact .inr ⟨Memory.readRange_error m h1 h2, h1, h2⟩

/-- The memory after a range write is in canonical form. -/
theorem Memory.writeRange_wf {m m' : Memory} {base : Nat} {bytes : List Byte} (hw : m.wf = true)
    (h : m.writeRange base bytes = .ok m') : m'.wf = true := by
  rcases Memory.writeRange_cases m base bytes with ⟨e, hl⟩ | ⟨e, _⟩
  · rw [e] at h; cases h
    rcases hl with h0 | hl
    · rw [List.eq_nil_of_length_eq_zero h0]; exact hw
    · exact Memory.pokeMany_wf hw hl
  · rw [e] at h; cases h

/-- The memory after a single write is in canonical form. -/
theorem Memory.write_wf {m m' : Memory} {a : Nat} {v : Byte} (hw : m.wf = true) (h : m.write a v = .ok m') :
    m'.wf = true := by
  simp only [Memory.write] at h
  split at h
  · cases h; exact Memory.poke_wf hw (by assumption) v
  · cases h

/-- The memory after a bulk copy is in canonical form. -/
theorem Memory.copyIn_wf {m m' : Memory} {start : Nat} {bytes : List Byte} (hw : m.wf = true)
    (h : m.copyIn start bytes = some m') : m'.wf = true := by
  simp only [Memory.copyIn] at h
  split at h
  · cases h
  · cases h; exact Memory.pokeMany_wf hw (Nat.le_of_not_gt (by assumption))

end Sys2Proof.Machine
end

