-- ==== Sys2Proof/Laws/Ops.lean ====
section
/-! SUPPORT. One lemma for each shared operation that says everything it can answer: push, pop, fetch, runs of
registers, and one cycle. -/

namespace Sys2Proof.Machine

variable (s : State)

/-! ### The call stack (spec/10_state.md R29, R30) -/

/-- Everything a push can answer. -/
theorem State.push_cases (v : Word) :
    (s.sp.toNat = 16 ∧ s.push v = .error .full) ∨
    (∃ h : s.sp.toNat < 16, s.push v = .ok { s with stack := s.stack.set s.sp.toNat v h, sp := s.sp + 1 }) ∨
    (16 < s.sp.toNat ∧ s.push v = .error .noCell) := by
  simp only [State.push, Config.stackDepth]
  split_ifs with h1 h2
  · exact .inl ⟨h1, rfl⟩
  · exact .inr (.inl ⟨h2, rfl⟩)
  · exact .inr (.inr ⟨by omega, rfl⟩)

/-- Everything a pop can answer. -/
theorem State.pop_cases :
    (s.sp.toNat = 0 ∧ s.pop = .error .empty) ∨
    (∃ h : s.sp.toNat - 1 < 16, 1 ≤ s.sp.toNat ∧ s.pop = .ok (s.stack[s.sp.toNat - 1], { s with sp := s.sp - 1 })) ∨
    (16 < s.sp.toNat ∧ s.pop = .error .noCell) := by
  simp only [State.pop, Config.stackDepth]
  split_ifs with h1 h2
  · exact .inl ⟨h1, rfl⟩
  · exact .inr (.inl ⟨h2, by omega, rfl⟩)
  · exact .inr (.inr ⟨by omega, rfl⟩)

/-! ### Runs of registers (spec/43_index_memory.md R195, R196) -/

@[simp] theorem State.regsUpTo_length (x : RegIx) : (s.regsUpTo x).length = x.toNat + 1 := by
  have := x.isLt
  simp only [State.regsUpTo, List.length_take, Vector.length_toList]
  omega

theorem State.regsUpTo_getElem (x : RegIx) {k : Nat} (h : k < (s.regsUpTo x).length) :
    (s.regsUpTo x)[k] = s.reg (BitVec.ofNat 4 k) := by
  have hk : k < 16 := by have := x.isLt; simp only [State.regsUpTo_length] at h; omega
  simp only [State.regsUpTo, List.getElem_take, Vector.getElem_toList, State.reg, BitVec.toNat_ofNat,
    show k % 2 ^ 4 = k by omega]

/-- A run of bytes into registers changes registers only. -/
theorem State.setRegsFrom_frame : ∀ (bs : List Byte) (s : State) (k : Nat),
    s.setRegsFrom k bs = { s with regs := (s.setRegsFrom k bs).regs }
  | [], _, _ => rfl
  | b :: bs, s, k => by
    rw [State.setRegsFrom, State.setRegsFrom_frame bs]
    rfl

/-- Register `q` holds its byte of the run, or is as before. -/
theorem State.setRegsFrom_reg (q : RegIx) : ∀ (bs : List Byte) (s : State) (k : Nat), k + bs.length ≤ 16 →
    (s.setRegsFrom k bs).reg q = if k ≤ q.toNat then bs.getD (q.toNat - k) (s.reg q) else s.reg q
  | [], s, k, _ => by simp [State.setRegsFrom]
  | b :: bs, s, k, h => by
    have hk : k < 16 := by simp only [List.length_cons] at h; omega
    have ht : (BitVec.ofNat 4 k).toNat = k := by simp only [BitVec.toNat_ofNat]; omega
    rw [State.setRegsFrom, State.setRegsFrom_reg q bs _ (k + 1) (by simp only [List.length_cons] at h; omega),
      State.setReg_reg]
    by_cases e : q = BitVec.ofNat 4 k
    · subst e; simp [ht]
    · have hne : q.toNat ≠ k := fun h' => e (BitVec.eq_of_toNat_eq (by rw [ht, h']))
      rw [if_neg e]
      by_cases hle : k ≤ q.toNat
      · rw [if_pos (by omega), if_pos hle, show q.toNat - k = q.toNat - (k + 1) + 1 by omega, List.getD_cons_succ]
      · rw [if_neg (by omega), if_neg hle]

/-! ### Fetch and the cycle (spec/40_cycle.md R120, R121) -/

/-- Everything a fetch can answer. -/
theorem State.fetch_cases :
    (s.pc.toNat ≤ 4094 ∧ s.fetch = .ok (wordOfBytes (s.mem.peek s.pc.toNat) (s.mem.peek (s.pc.toNat + 1)))) ∨
    (4095 ≤ s.pc.toNat ∧ s.fetch = .error (max s.pc.toNat 4096)) := by
  simp only [State.fetch, Memory.read, Config.memSize]
  split_ifs with h1 h2 h3
  · exact .inl ⟨by omega, rfl⟩
  · exact .inr ⟨by omega, by simp only [Except.error.injEq]; omega⟩
  · omega
  · exact .inr ⟨by omega, by simp only [Except.error.injEq]; omega⟩

theorem step_of_fetch_error {s : State} {a : Nat} (hf : s.fault = none) (h : s.fetch = .error a) :
    step s = .next (s.raiseFetch a) := by
  unfold step State.halted
  rw [hf, h]
  rfl

theorem step_of_illegal {s : State} {w : Word} (hf : s.fault = none) (h : s.fetch = .ok w) (hd : decodeWord w = none) :
    step s = .next (s.raiseUnrecognized w) := by
  unfold step State.halted
  rw [hf, h]
  simp [hd]

theorem step_of_decoded {s : State} {w : Word} {i : Instr} (hf : s.fault = none) (h : s.fetch = .ok w)
    (hd : decodeWord w = some i) : step s = exec i s := by
  unfold step State.halted
  rw [hf, h]
  simp [hd]

theorem step_of_halted {s : State} (h : s.fault ≠ none) : step s = .next s := by
  simp [step, State.halted, State.haltedCycle, Option.isSome_iff_ne_none.2 h]

/-- Everything a cycle can be: a halted one, a failed fetch, an illegal word, or the decoded instruction. -/
theorem step_cases :
    (s.fault ≠ none ∧ step s = .next s) ∨
    (s.fault = none ∧ ∃ a, s.fetch = .error a ∧ step s = .next (s.raiseFetch a)) ∨
    (s.fault = none ∧ ∃ w, s.fetch = .ok w ∧ decodeWord w = none ∧ step s = .next (s.raiseUnrecognized w)) ∨
    (s.fault = none ∧ ∃ w i, s.fetch = .ok w ∧ decodeWord w = some i ∧ step s = exec i s) := by
  by_cases hf : s.fault = none
  · rcases he : s.fetch with a | w
    · exact .inr (.inl ⟨hf, a, rfl, step_of_fetch_error hf he⟩)
    · rcases hd : decodeWord w with _ | i
      · exact .inr (.inr (.inl ⟨hf, w, rfl, hd, step_of_illegal hf he hd⟩))
      · exact .inr (.inr (.inr ⟨hf, w, i, rfl, hd, step_of_decoded hf he hd⟩))
  · exact .inl ⟨hf, step_of_halted hf⟩

/-! ### Keys (spec/45_keys_timers.md R225) -/

theorem State.mem_pressed (k : KeyIx) : k ∈ s.pressed ↔ s.key k = true := by
  have hall : ∀ k : KeyIx, k ∈ [0#4, 1#4, 2#4, 3#4, 4#4, 5#4, 6#4, 7#4, 8#4, 9#4, 10#4, 11#4, 12#4, 13#4, 14#4, 15#4] := by
    decide
  simp only [State.pressed, List.mem_filter, hall k, true_and]

/-- The first pressed key is the least (R225). -/
theorem State.pressed_sorted : s.pressed.Pairwise (· < ·) :=
  List.Pairwise.filter _ (by decide)

end Sys2Proof.Machine
end

