-- ==== Sys2Proof/Laws/Frame.lean ====
section
/-! SUPPORT. The frame of each shape of update, so that the frame of an instruction is one citation. -/

namespace Sys2Proof.Machine

variable (s : State)

theorem Unchanged.refl (w : Writes) : Unchanged w s s :=
  ⟨fun _ _ => rfl, fun _ => rfl, fun _ => rfl, fun _ _ => rfl, fun _ => rfl, fun _ => rfl, rfl, fun _ => rfl,
    fun _ _ => rfl, rfl, fun _ => rfl⟩

theorem unchanged_jump (p : Word) : Unchanged {} s (s.jump p) :=
  ⟨fun _ _ => rfl, fun _ => rfl, fun _ => rfl, fun _ _ => rfl, fun _ => rfl, fun _ => rfl, rfl, fun _ => rfl,
    fun _ _ => rfl, rfl, fun _ => rfl⟩

theorem unchanged_skipIf (c : Bool) : Unchanged {} s (s.skipIf c) := by
  rw [State.skipIf_eq]
  exact unchanged_jump s _

theorem unchanged_setReg (x : RegIx) (v : Byte) :
    Unchanged { regs := fun r => r == x } s (s.advance.setReg x v) :=
  ⟨fun r h => by rw [State.setReg_reg_other _ (by simpa using h)]; rfl, fun _ => rfl, fun _ => rfl, fun _ _ => rfl,
    fun _ => rfl, fun _ => rfl, rfl, fun _ => rfl, fun _ _ => rfl, rfl, fun _ => rfl⟩

theorem unchanged_setResultAndFlag (x : RegIx) (v : Byte) (f : Bool) :
    Unchanged { regs := fun r => r == x || r == vF } s (s.advance.setResultAndFlag x v f) :=
  ⟨fun r h => by
      simp only [Bool.or_eq_false_iff, beq_eq_false_iff_ne, ne_eq] at h
      rw [State.setResultAndFlag_reg, if_neg h.2, if_neg h.1]; rfl,
    fun _ => rfl, fun _ => rfl, fun _ _ => rfl, fun _ => rfl, fun _ => rfl, rfl, fun _ => rfl, fun _ _ => rfl, rfl,
    fun _ => rfl⟩

theorem unchanged_randomize (x : RegIx) (nn rand : Byte) :
    Unchanged { regs := fun r => r == x, draws := true } s (s.countDraw.randomize x nn rand) :=
  ⟨fun r h => by rw [State.randomize, State.setReg_reg_other _ (by simpa using h)]; rfl, fun _ => rfl, fun _ => rfl,
    fun _ _ => rfl, fun _ => rfl, fun _ => rfl, rfl, fun _ => rfl, fun _ _ => rfl, rfl, fun h => by cases h⟩

theorem unchanged_setIndex (v : Word) : Unchanged { index := true } s (s.advance.setIndex v) :=
  ⟨fun _ _ => rfl, fun h => (by cases h), fun _ => rfl, fun _ _ => rfl, fun _ => rfl, fun _ => rfl, rfl, fun _ => rfl,
    fun _ _ => rfl, rfl, fun _ => rfl⟩

theorem unchanged_setDelay (v : Byte) : Unchanged { dt := true } s (s.advance.setDelay v) :=
  ⟨fun _ _ => rfl, fun _ => rfl, fun _ => rfl, fun _ _ => rfl, fun h => (by cases h), fun _ => rfl, rfl, fun _ => rfl,
    fun _ _ => rfl, rfl, fun _ => rfl⟩

theorem unchanged_setSound (v : Byte) : Unchanged { st := true } s (s.advance.setSound v) :=
  ⟨fun _ _ => rfl, fun _ => rfl, fun _ => rfl, fun _ _ => rfl, fun _ => rfl, fun h => (by cases h), rfl, fun _ => rfl,
    fun _ _ => rfl, rfl, fun _ => rfl⟩

theorem unchanged_setCanvas (c : Canvas) :
    Unchanged { disp := true, regs := fun r => r == vF } s (s.advance.setCanvas c) :=
  ⟨fun r h => by rw [State.setCanvas_reg, if_neg (by simpa using h)]; rfl, fun _ => rfl, fun _ => rfl,
    fun _ _ => rfl, fun _ => rfl, fun _ => rfl, rfl, fun h => (by cases h), fun _ _ => rfl, rfl, fun _ => rfl⟩

/-- A run of bytes written to memory changes the addresses of the run only. -/
theorem unchanged_pokeMany (bytes : List Byte) {f : Nat → Bool}
    (hf : ∀ a, f a = false → a < s.index.toNat ∨ s.index.toNat + bytes.length ≤ a) :
    Unchanged { mem := f } s (s.advance.setMem (s.mem.pokeMany s.index.toNat bytes)) :=
  ⟨fun _ _ => rfl, fun _ => rfl, fun _ => rfl, fun _ _ => rfl, fun _ => rfl, fun _ => rfl, rfl, fun _ => rfl,
    fun a h => Memory.peek_pokeMany_other (hf a h), rfl, fun _ => rfl⟩

/-- A run of bytes into V0 to Vx changes those registers only. -/
theorem unchanged_setRegsFrom (x : RegIx) (bytes : List Byte) (hl : bytes.length = x.toNat + 1) :
    Unchanged { regs := fun r => decide (r.toNat ≤ x.toNat) } s (s.advance.setRegsFrom 0 bytes) := by
  have hx := x.isLt
  rw [State.setRegsFrom_frame]
  refine ⟨fun r h => ?_, fun _ => rfl, fun _ => rfl, fun _ _ => rfl, fun _ => rfl, fun _ => rfl, rfl, fun _ => rfl,
    fun _ _ => rfl, rfl, fun _ => rfl⟩
  simp only [decide_eq_false_iff_not, not_le] at h
  show (s.advance.setRegsFrom 0 bytes).reg r = s.reg r
  rw [State.setRegsFrom_reg r bytes _ 0 (by omega), if_pos (Nat.zero_le _), Nat.sub_zero,
    List.getD_eq_default _ _ (by omega)]
  rfl

end Sys2Proof.Machine
end

