-- ==== Sys2Proof/Laws/PerInstr.lean ====
section
/-! SUPPORT. The family `OpcodeRow`, one lemma per constructor of Instr: the word of an instruction is accepted by the
instruction's own row of the opcode map (spec/30_encoding.md R96). -/

namespace Sys2Proof

/-! ### A word under the masks of R94 -/

theorem and_mask_a (op : BitVec 4) (nnn : Addr) : (op ++ nnn : Word) &&& 0xF000#16 = op ++ 0#12 := by
  rw [show (0xF000#16 : Word) = 0xF#4 ++ 0#12 from rfl, BitVec.and_append, BitVec.and_zero,
    show (0xF#4 : BitVec 4) = BitVec.allOnes 4 from rfl, BitVec.and_allOnes]

theorem and_mask_xi (op x : BitVec 4) (nn : Byte) : (op ++ x ++ nn : Word) &&& 0xF000#16 = op ++ 0#4 ++ 0#8 := by
  rw [show (0xF000#16 : Word) = 0xF#4 ++ 0#4 ++ 0#8 from rfl, BitVec.and_append, BitVec.and_append, BitVec.and_zero,
    BitVec.and_zero, show (0xF#4 : BitVec 4) = BitVec.allOnes 4 from rfl, BitVec.and_allOnes]

theorem and_mask_xy (op x y f : BitVec 4) : (op ++ x ++ y ++ f : Word) &&& 0xF00F#16 = op ++ 0#4 ++ 0#4 ++ f := by
  rw [show (0xF00F#16 : Word) = 0xF#4 ++ 0#4 ++ 0#4 ++ 0xF#4 from rfl, BitVec.and_append, BitVec.and_append,
    BitVec.and_append, BitVec.and_zero, BitVec.and_zero, show (0xF#4 : BitVec 4) = BitVec.allOnes 4 from rfl,
    BitVec.and_allOnes, BitVec.and_allOnes]

theorem and_mask_xyn (op x y n : BitVec 4) : (op ++ x ++ y ++ n : Word) &&& 0xF000#16 = op ++ 0#4 ++ 0#4 ++ 0#4 := by
  rw [show (0xF000#16 : Word) = 0xF#4 ++ 0#4 ++ 0#4 ++ 0#4 from rfl, BitVec.and_append, BitVec.and_append,
    BitVec.and_append, BitVec.and_zero, BitVec.and_zero, BitVec.and_zero,
    show (0xF#4 : BitVec 4) = BitVec.allOnes 4 from rfl, BitVec.and_allOnes]

theorem and_mask_xf (op x : BitVec 4) (nn : Byte) : (op ++ x ++ nn : Word) &&& 0xF0FF#16 = op ++ 0#4 ++ nn := by
  rw [show (0xF0FF#16 : Word) = 0xF#4 ++ 0#4 ++ 0xFF#8 from rfl, BitVec.and_append, BitVec.and_append, BitVec.and_zero,
    show (0xF#4 : BitVec 4) = BitVec.allOnes 4 from rfl, show (0xFF#8 : BitVec 8) = BitVec.allOnes 8 from rfl,
    BitVec.and_allOnes, BitVec.and_allOnes]

end Sys2Proof

namespace Sys2Proof.Laws.OpcodeRow

/-- The map has a row of this instruction's mnemonic, and it accepts the instruction's word. -/
def Statement (i : Instr) : Prop :=
  ∃ r ∈ opcodeMap, r.mnemonic = i.mnemonic ∧ r.accepts (encode i) = true

/-- How each lemma below is shown: the row, and the word under its mask. -/
theorem of_row {i : Instr} (r : Sys2Proof.OpcodeRow) (hr : r ∈ opcodeMap) (hm : r.mnemonic = i.mnemonic)
    (h : encode i &&& r.mask = r.pattern) : Statement i :=
  ⟨r, hr, hm, by simp [OpcodeRow.accepts, h]⟩

theorem cls : Statement .cls :=
  of_row ⟨.cls, 0xFFFF#16, 0x00E0#16⟩ (by decide) rfl rfl

theorem ret : Statement .ret :=
  of_row ⟨.ret, 0xFFFF#16, 0x00EE#16⟩ (by decide) rfl rfl

theorem jp (nnn : Addr) : Statement (.jp nnn) :=
  of_row ⟨.jp, 0xF000#16, 0x1000#16⟩ (by decide) rfl (and_mask_a 0x1#4 nnn)

theorem call (nnn : Addr) : Statement (.call nnn) :=
  of_row ⟨.call, 0xF000#16, 0x2000#16⟩ (by decide) rfl (and_mask_a 0x2#4 nnn)

theorem seImm (x : RegIx) (nn : Byte) : Statement (.seImm x nn) :=
  of_row ⟨.seImm, 0xF000#16, 0x3000#16⟩ (by decide) rfl (and_mask_xi 0x3#4 x nn)

theorem sneImm (x : RegIx) (nn : Byte) : Statement (.sneImm x nn) :=
  of_row ⟨.sneImm, 0xF000#16, 0x4000#16⟩ (by decide) rfl (and_mask_xi 0x4#4 x nn)

theorem seReg (x : RegIx) (y : RegIx) : Statement (.seReg x y) :=
  of_row ⟨.seReg, 0xF00F#16, 0x5000#16⟩ (by decide) rfl (and_mask_xy 0x5#4 x y 0x0#4)

theorem ldImm (x : RegIx) (nn : Byte) : Statement (.ldImm x nn) :=
  of_row ⟨.ldImm, 0xF000#16, 0x6000#16⟩ (by decide) rfl (and_mask_xi 0x6#4 x nn)

theorem addImm (x : RegIx) (nn : Byte) : Statement (.addImm x nn) :=
  of_row ⟨.addImm, 0xF000#16, 0x7000#16⟩ (by decide) rfl (and_mask_xi 0x7#4 x nn)

theorem ldReg (x : RegIx) (y : RegIx) : Statement (.ldReg x y) :=
  of_row ⟨.ldReg, 0xF00F#16, 0x8000#16⟩ (by decide) rfl (and_mask_xy 0x8#4 x y 0x0#4)

theorem orReg (x : RegIx) (y : RegIx) : Statement (.orReg x y) :=
  of_row ⟨.orReg, 0xF00F#16, 0x8001#16⟩ (by decide) rfl (and_mask_xy 0x8#4 x y 0x1#4)

theorem andReg (x : RegIx) (y : RegIx) : Statement (.andReg x y) :=
  of_row ⟨.andReg, 0xF00F#16, 0x8002#16⟩ (by decide) rfl (and_mask_xy 0x8#4 x y 0x2#4)

theorem xorReg (x : RegIx) (y : RegIx) : Statement (.xorReg x y) :=
  of_row ⟨.xorReg, 0xF00F#16, 0x8003#16⟩ (by decide) rfl (and_mask_xy 0x8#4 x y 0x3#4)

theorem addReg (x : RegIx) (y : RegIx) : Statement (.addReg x y) :=
  of_row ⟨.addReg, 0xF00F#16, 0x8004#16⟩ (by decide) rfl (and_mask_xy 0x8#4 x y 0x4#4)

theorem sub (x : RegIx) (y : RegIx) : Statement (.sub x y) :=
  of_row ⟨.sub, 0xF00F#16, 0x8005#16⟩ (by decide) rfl (and_mask_xy 0x8#4 x y 0x5#4)

theorem shr (x : RegIx) (y : RegIx) : Statement (.shr x y) :=
  of_row ⟨.shr, 0xF00F#16, 0x8006#16⟩ (by decide) rfl (and_mask_xy 0x8#4 x y 0x6#4)

theorem subn (x : RegIx) (y : RegIx) : Statement (.subn x y) :=
  of_row ⟨.subn, 0xF00F#16, 0x8007#16⟩ (by decide) rfl (and_mask_xy 0x8#4 x y 0x7#4)

theorem shl (x : RegIx) (y : RegIx) : Statement (.shl x y) :=
  of_row ⟨.shl, 0xF00F#16, 0x800E#16⟩ (by decide) rfl (and_mask_xy 0x8#4 x y 0xE#4)

theorem sneReg (x : RegIx) (y : RegIx) : Statement (.sneReg x y) :=
  of_row ⟨.sneReg, 0xF00F#16, 0x9000#16⟩ (by decide) rfl (and_mask_xy 0x9#4 x y 0x0#4)

theorem ldI (nnn : Addr) : Statement (.ldI nnn) :=
  of_row ⟨.ldI, 0xF000#16, 0xA000#16⟩ (by decide) rfl (and_mask_a 0xA#4 nnn)

theorem jpV0 (nnn : Addr) : Statement (.jpV0 nnn) :=
  of_row ⟨.jpV0, 0xF000#16, 0xB000#16⟩ (by decide) rfl (and_mask_a 0xB#4 nnn)

theorem rnd (x : RegIx) (nn : Byte) : Statement (.rnd x nn) :=
  of_row ⟨.rnd, 0xF000#16, 0xC000#16⟩ (by decide) rfl (and_mask_xi 0xC#4 x nn)

theorem drw (x : RegIx) (y : RegIx) (n : BitVec 4) : Statement (.drw x y n) :=
  of_row ⟨.drw, 0xF000#16, 0xD000#16⟩ (by decide) rfl (and_mask_xyn 0xD#4 x y n)

theorem skp (x : RegIx) : Statement (.skp x) :=
  of_row ⟨.skp, 0xF0FF#16, 0xE09E#16⟩ (by decide) rfl (and_mask_xf 0xE#4 x 0x9E#8)

theorem sknp (x : RegIx) : Statement (.sknp x) :=
  of_row ⟨.sknp, 0xF0FF#16, 0xE0A1#16⟩ (by decide) rfl (and_mask_xf 0xE#4 x 0xA1#8)

theorem ldVxDt (x : RegIx) : Statement (.ldVxDt x) :=
  of_row ⟨.ldVxDt, 0xF0FF#16, 0xF007#16⟩ (by decide) rfl (and_mask_xf 0xF#4 x 0x07#8)

theorem ldVxK (x : RegIx) : Statement (.ldVxK x) :=
  of_row ⟨.ldVxK, 0xF0FF#16, 0xF00A#16⟩ (by decide) rfl (and_mask_xf 0xF#4 x 0x0A#8)

theorem ldDtVx (x : RegIx) : Statement (.ldDtVx x) :=
  of_row ⟨.ldDtVx, 0xF0FF#16, 0xF015#16⟩ (by decide) rfl (and_mask_xf 0xF#4 x 0x15#8)

theorem ldStVx (x : RegIx) : Statement (.ldStVx x) :=
  of_row ⟨.ldStVx, 0xF0FF#16, 0xF018#16⟩ (by decide) rfl (and_mask_xf 0xF#4 x 0x18#8)

theorem addI (x : RegIx) : Statement (.addI x) :=
  of_row ⟨.addI, 0xF0FF#16, 0xF01E#16⟩ (by decide) rfl (and_mask_xf 0xF#4 x 0x1E#8)

theorem ldF (x : RegIx) : Statement (.ldF x) :=
  of_row ⟨.ldF, 0xF0FF#16, 0xF029#16⟩ (by decide) rfl (and_mask_xf 0xF#4 x 0x29#8)

theorem bcd (x : RegIx) : Statement (.bcd x) :=
  of_row ⟨.bcd, 0xF0FF#16, 0xF033#16⟩ (by decide) rfl (and_mask_xf 0xF#4 x 0x33#8)

theorem stRegs (x : RegIx) : Statement (.stRegs x) :=
  of_row ⟨.stRegs, 0xF0FF#16, 0xF055#16⟩ (by decide) rfl (and_mask_xf 0xF#4 x 0x55#8)

theorem ldRegs (x : RegIx) : Statement (.ldRegs x) :=
  of_row ⟨.ldRegs, 0xF0FF#16, 0xF065#16⟩ (by decide) rfl (and_mask_xf 0xF#4 x 0x65#8)

end Sys2Proof.Laws.OpcodeRow
end

