-- ==== Sys2Proof/Laws/Transactions.lean ====
section
/-! SUPPORT. The parameters of R6: what the reset state, get-key and an instruction are under given ones, and that the
defaults give back `State.reset` and `exec`. -/

namespace Sys2Proof.Machine

variable (p : Params) (s : State)

/-! ### FONT_TABLE (spec/10_state.md R40) -/

@[simp] theorem State.resetFor_regs : (State.resetFor p).regs = State.reset.regs := rfl
@[simp] theorem State.resetFor_index : (State.resetFor p).index = State.reset.index := rfl
@[simp] theorem State.resetFor_pc : (State.resetFor p).pc = State.reset.pc := rfl
@[simp] theorem State.resetFor_sp : (State.resetFor p).sp = State.reset.sp := rfl
@[simp] theorem State.resetFor_stack : (State.resetFor p).stack = State.reset.stack := rfl
@[simp] theorem State.resetFor_dt : (State.resetFor p).dt = State.reset.dt := rfl
@[simp] theorem State.resetFor_st : (State.resetFor p).st = State.reset.st := rfl
@[simp] theorem State.resetFor_keys : (State.resetFor p).keys = State.reset.keys := rfl
@[simp] theorem State.resetFor_disp : (State.resetFor p).disp = State.reset.disp := rfl
@[simp] theorem State.resetFor_fault : (State.resetFor p).fault = none := rfl
@[simp] theorem State.resetFor_draws : (State.resetFor p).draws = State.reset.draws := rfl

theorem State.resetFor_mem_wf : (State.resetFor p).mem.wf = true :=
  Memory.pokeMany_wf rfl (by rw [p.fontBytes]; decide)

theorem State.resetFor_peek_font {a : Nat} (h : a < 80) : (State.resetFor p).mem.peek a = p.font.getD a 0 := by
  have hk : a < p.font.length := by rw [p.fontBytes]; exact h
  have := Memory.peek_pokeMany (k := a) (bs := p.font) (m := []) (a := 0) rfl (by rw [p.fontBytes]; decide) hk
  rw [Nat.zero_add] at this
  exact this.trans (by rw [List.getD_eq_getElem?_getD, List.getElem?_eq_getElem hk]; rfl)

theorem State.resetFor_peek_above {a : Nat} (h : 80 ≤ a) : (State.resetFor p).mem.peek a = 0 := by
  refine (Memory.peek_pokeMany_other (bs := p.font) (m := []) (a := 0) (.inr (by rw [p.fontBytes]; omega))).trans ?_
  exact (List.getD_eq_getElem?_getD ..).trans (by rw [List.getElem?_eq_none (by exact h)]; rfl)

theorem State.resetFor_default : State.resetFor Params.default = State.reset := by decide

/-! ### KEY_PRIORITY (spec/45_keys_timers.md R225) -/

@[simp] theorem State.getKey_index (choose : KeyIx → List KeyIx → KeyIx) (x : RegIx) :
    (s.getKey choose x).index = s.index := by
  unfold State.getKey; split <;> rfl
@[simp] theorem State.getKey_sp (choose : KeyIx → List KeyIx → KeyIx) (x : RegIx) :
    (s.getKey choose x).sp = s.sp := by
  unfold State.getKey; split <;> rfl
@[simp] theorem State.getKey_stack (choose : KeyIx → List KeyIx → KeyIx) (x : RegIx) :
    (s.getKey choose x).stack = s.stack := by
  unfold State.getKey; split <;> rfl
@[simp] theorem State.getKey_dt (choose : KeyIx → List KeyIx → KeyIx) (x : RegIx) :
    (s.getKey choose x).dt = s.dt := by
  unfold State.getKey; split <;> rfl
@[simp] theorem State.getKey_st (choose : KeyIx → List KeyIx → KeyIx) (x : RegIx) :
    (s.getKey choose x).st = s.st := by
  unfold State.getKey; split <;> rfl
@[simp] theorem State.getKey_keys (choose : KeyIx → List KeyIx → KeyIx) (x : RegIx) :
    (s.getKey choose x).keys = s.keys := by
  unfold State.getKey; split <;> rfl
@[simp] theorem State.getKey_disp (choose : KeyIx → List KeyIx → KeyIx) (x : RegIx) :
    (s.getKey choose x).disp = s.disp := by
  unfold State.getKey; split <;> rfl
@[simp] theorem State.getKey_mem (choose : KeyIx → List KeyIx → KeyIx) (x : RegIx) :
    (s.getKey choose x).mem = s.mem := by
  unfold State.getKey; split <;> rfl
@[simp] theorem State.getKey_fault (choose : KeyIx → List KeyIx → KeyIx) (x : RegIx) :
    (s.getKey choose x).fault = s.fault := by
  unfold State.getKey; split <;> rfl
@[simp] theorem State.getKey_draws (choose : KeyIx → List KeyIx → KeyIx) (x : RegIx) :
    (s.getKey choose x).draws = s.draws := by
  unfold State.getKey; split <;> rfl

/-- Everything get-key can do: nothing at all, or one pressed key into `Vx`. -/
theorem State.getKey_cases (x : RegIx) :
    ((∀ k, s.key k = false) ∧ s.getKey p.keyPriority x = s) ∨
    ∃ least more, s.pressed = least :: more ∧ s.key (p.keyPriority least more) = true ∧
      s.getKey p.keyPriority x = s.advance.setReg x ((p.keyPriority least more).setWidth 8) := by
  unfold State.getKey
  rcases h : s.pressed with _ | ⟨least, more⟩
  · refine .inl ⟨fun k => ?_, ?_⟩
    · have := (s.mem_pressed k).not.1 (by simp [h])
      simpa using this
    · simp [State.advance, State.jump]
  · exact .inr ⟨least, more, rfl, (s.mem_pressed _).1 (h ▸ p.keyIsPressed least more), rfl⟩

/-! ### Instructions -/

theorem execWith_default (i : Instr) : execWith Params.default (Config.randByte s.draws) i s = exec i s := by
  cases i <;> rfl

/-- An instruction with given parameters and byte is `exec`, but for RND and LD_VX_K. -/
theorem execWith_cases (rand : Byte) (i : Instr) :
    (∃ x nn, i = .rnd x nn ∧ execWith p rand i s = .next (s.countDraw.randomize x nn rand)) ∨
    (∃ x, i = .ldVxK x ∧ execWith p rand i s = .next (s.getKey p.keyPriority x)) ∨
    execWith p rand i s = exec i s := by
  cases i <;> first
    | exact .inr (.inr rfl)
    | exact .inl ⟨_, _, rfl, rfl⟩
    | exact .inr (.inl ⟨_, rfl, rfl⟩)

end Sys2Proof.Machine
end

