-- ==== Sys2Proof/Tests/Slice0.lean ====
section
/-! SUPPORT. Tests. `S<n>`, `T<n>` and `P<n>` name the vector of spec/95_test_vectors.md that a test takes its values
from. Unless a test says otherwise its word stands at 0x200 in the reset state, with the named registers set. The
last part gives, for every obligation with hypotheses, a state and operands that meet them, at the ends of their
ranges. -/

namespace Sys2Proof.Tests

open Sys2Proof.Machine

/-- The step gives a next state, and `p` holds of it. -/
def after (o : StepOutcome) (p : State → Bool) : Bool :=
  match o with
  | .next t => p t
  | .fault _ => false
  | .refused _ => false

/-- The transaction is served, and `p` holds of the state after it and the answer. -/
def served (o : Host.Outcome Served Fault Refusal) (p : State → Reply → Bool) : Bool :=
  match o with
  | .next r => p r.state r.reply
  | .fault _ => false
  | .refused _ => false

/-- The reset state with a word at 0x200. -/
def word (w : Nat) : State := State.reset.withFetchWord 16 w

/-- `s` with bytes from an address on. -/
def bytesAt (a : Nat) (bs : List Byte) (s : State) : State := s.setMem (s.mem.pokeMany a bs)

/-- The fault of `t` is this record. -/
def faultIs (t : State) (c : Cause) (fpc : Word) (w : Option Word) (a : Option Nat) : Bool :=
  t.fault == some ⟨c, fpc, w, a⟩

/-- A machine with other parameters: a font of 0x11 throughout, and the last of the pressed keys. -/
def otherParams : Params where
  font := List.replicate 80 0x11
  fontBytes := rfl
  keyPriority least more := (least :: more).getLast (List.cons_ne_nil least more)
  keyIsPressed least more := List.getLast_mem (List.cons_ne_nil least more)

/-- The cell at a column and a row is on. -/
def lit (t : State) (xx : Fin 64) (yy : Fin 32) : Bool := Display.cell t.disp xx yy

/-- A core at the ends of the ranges of the invariant: `I` = 0x0FFF, `pc` = 0x10FE, a full stack. -/
def corner : State :=
  { State.reset with index := 0x0FFF, pc := 0x10FE, sp := 16, stack := Vector.replicate 16 4096 }

/-- A halted core. -/
def haltedCore : State :=
  { State.reset with fault := some ⟨.unrecognizedInstruction, 0x200, some 0x0000, none⟩ }

/-! ### Parameters (R6) -/

/-- R40 and R225 under other parameters: the font at both its ends, and the key of T99's keys that is chosen. -/
theorem test_other_font : served (serve otherParams .reset haltedCore) (fun t _ =>
    t.mem.peek 0 == 0x11 && t.mem.peek 79 == 0x11 && t.mem.peek 80 == 0 && t.pc == 0x200) = true := by decide
theorem test_other_key_priority : served (serve otherParams (.cycle 0) (((word 0xF70A).setKey 3 true).setKey 9 true))
    (fun t _ => t.reg 7 == 9 && t.pc == 0x202) = true := by decide

/-! ### Numbers that do not fit are refused (R101) -/

theorem test_line_well_formed : AsmLine.wellFormed ⟨.drw, [15, 15, 15]⟩ = true ∧
    AsmLine.wellFormed ⟨.jp, [4095]⟩ = true ∧ AsmLine.wellFormed ⟨.ldImm, [15, 255]⟩ = true ∧
    AsmItem.wellFormed (.db [0, 255]) = true := by decide
theorem test_register_too_large : AsmLine.wellFormed ⟨.ldImm, [16, 0]⟩ = false ∧
    AsmLine.wellFormed ⟨.addReg, [16, 0]⟩ = false ∧ AsmLine.wellFormed ⟨.addReg, [0, 16]⟩ = false ∧
    AsmLine.wellFormed ⟨.drw, [16, 0, 0]⟩ = false ∧ AsmLine.wellFormed ⟨.drw, [0, 16, 0]⟩ = false ∧
    AsmLine.wellFormed ⟨.bcd, [16]⟩ = false := by decide
theorem test_number_too_large : AsmLine.wellFormed ⟨.ldImm, [0, 256]⟩ = false ∧
    AsmLine.wellFormed ⟨.jp, [4096]⟩ = false ∧ AsmLine.wellFormed ⟨.drw, [0, 0, 16]⟩ = false ∧
    AsmItem.wellFormed (.db [256]) = false ∧ AsmItem.wellFormed (.instr ⟨.jp, [4096]⟩) = false := by decide
theorem test_wrong_operand_count : AsmLine.wellFormed ⟨.cls, [0]⟩ = false ∧
    AsmLine.wellFormed ⟨.jp, []⟩ = false ∧ AsmLine.wellFormed ⟨.seImm, [0]⟩ = false ∧
    AsmLine.wellFormed ⟨.sub, [0, 0, 0]⟩ = false ∧ AsmLine.wellFormed ⟨.drw, [0, 0]⟩ = false ∧
    AsmLine.wellFormed ⟨.skp, []⟩ = false := by decide
/-- The lines of P3, its DB among them, and a line that is refused. -/
theorem test_assembler : assembleItem (.instr ⟨.drw, [1, 2, 2]⟩) = some [0xD1, 0x22] ∧
    assembleItem (.instr ⟨.ldI, [0x20E]⟩) = some [0xA2, 0x0E] ∧ assembleItem (.db [0xC3, 0x80]) = some [0xC3, 0x80] ∧
    assembleItem (.instr ⟨.ldImm, [1, 256]⟩) = none ∧ assembleItem (.db [256]) = none := by decide

/-! ### Decoding: a word of every row of R96, written bit by bit, and a word of every group of R98 -/

theorem test_decode_flow : decodeWord 0b0000000011101110#16 = some .ret ∧
    decodeWord 0b0001101010111100#16 = some (.jp 0xABC) ∧ decodeWord 0b0010001000001010#16 = some (.call 0x20A) ∧
    decodeWord 0b0011001101000010#16 = some (.seImm 3 0x42) ∧
    decodeWord 0b0100001101000011#16 = some (.sneImm 3 0x43) ∧
    decodeWord 0b0101000100100000#16 = some (.seReg 1 2) ∧ decodeWord 0b1001000100100000#16 = some (.sneReg 1 2) ∧
    decodeWord 0b1011001100000000#16 = some (.jpV0 0x300) := by decide
theorem test_decode_load_logic : decodeWord 0b0110101010011100#16 = some (.ldImm 0xA 0x9C) ∧
    decodeWord 0b0111000011111111#16 = some (.addImm 0 0xFF) ∧ decodeWord 0b1000000100100000#16 = some (.ldReg 1 2) ∧
    decodeWord 0b1000000100100001#16 = some (.orReg 1 2) ∧ decodeWord 0b1000000100100010#16 = some (.andReg 1 2) ∧
    decodeWord 0b1000000100100011#16 = some (.xorReg 1 2) ∧
    decodeWord 0b1100001100001111#16 = some (.rnd 3 0x0F) := by decide
theorem test_decode_arithmetic : decodeWord 0b1000000100100100#16 = some (.addReg 1 2) ∧
    decodeWord 0b1000000100100101#16 = some (.sub 1 2) ∧ decodeWord 0b1000000100100110#16 = some (.shr 1 2) ∧
    decodeWord 0b1000000100100111#16 = some (.subn 1 2) ∧
    decodeWord 0b1000000100101110#16 = some (.shl 1 2) := by decide
theorem test_decode_index : decodeWord 0b1010111111111111#16 = some (.ldI 0xFFF) ∧
    decodeWord 0b1111010100011110#16 = some (.addI 5) ∧ decodeWord 0b1111000000101001#16 = some (.ldF 0) ∧
    decodeWord 0b1111101000110011#16 = some (.bcd 0xA) ∧ decodeWord 0b1111111101010101#16 = some (.stRegs 0xF) ∧
    decodeWord 0b1111001001100101#16 = some (.ldRegs 2) := by decide
theorem test_decode_display : decodeWord 0b0000000011100000#16 = some .cls ∧
    decodeWord 0b1101000100100010#16 = some (.drw 1 2 2) := by decide
theorem test_decode_keys_timers : decodeWord 0b1110010010011110#16 = some (.skp 4) ∧
    decodeWord 0b1110010010100001#16 = some (.sknp 4) ∧ decodeWord 0b1111001100000111#16 = some (.ldVxDt 3) ∧
    decodeWord 0b1111011100001010#16 = some (.ldVxK 7) ∧ decodeWord 0b1111001100010101#16 = some (.ldDtVx 3) ∧
    decodeWord 0b1111010100011000#16 = some (.ldStVx 5) := by decide
/-- T4, T5 and the numbers R98 names: at least one of each of its six groups. -/
theorem test_decode_illegal : decodeWord 0x0000#16 = none ∧ decodeWord 0x0001#16 = none ∧
    decodeWord 0x00E1#16 = none ∧ decodeWord 0x0FFF#16 = none ∧ decodeWord 0x5121#16 = none ∧
    decodeWord 0x8128#16 = none ∧ decodeWord 0x812F#16 = none ∧ decodeWord 0x9121#16 = none ∧
    decodeWord 0xE19F#16 = none ∧ decodeWord 0xF100#16 = none := by decide
/-- The high byte comes first (R67); the bytes after the word are left (P2). -/
theorem test_decode_bytes : decodeBytes [0x22, 0x0A, 0xF2, 0x65] = .ok (.call 0x20A, [0xF2, 0x65]) ∧
    decodeBytes [0x00] = .error .truncated ∧ decodeBytes [0x51, 0x21] = .error (.unrecognized 0x5121) ∧
    decodeTableWord 16 0x220A = some (.call 0x20A) := by decide
theorem test_encode : encode (.call 0x20A) = 0b0010001000001010#16 ∧ encode (.shl 1 2) = 0b1000000100101110#16 ∧
    encode (.ldRegs 2) = 0b1111001001100101#16 ∧ encode (.drw 1 2 2) = 0b1101000100100010#16 ∧
    encode (.sknp 4) = 0b1110010010100001#16 := by decide

/-! ### Reset, the cycle and its faults -/

/-- R40, R43: the last byte of glyph F and the bytes around it; the reset memory is canonical. -/
theorem test_reset_memory : State.reset.mem.peek 79 = 0x80 ∧ State.reset.mem.peek 80 = 0x00 ∧
    State.reset.mem.peek 15 = 0xF0 ∧ State.reset.mem.wf = true := by decide
/-- T1. -/
theorem test_nothing_loaded : after (step State.reset) (fun t =>
    faultIs t .unrecognizedInstruction 0x200 (some 0x0000) none && t.pc == 0x200) = true := by decide
/-- T2. -/
theorem test_fetch_from_last_byte : after (step (State.reset.jump 4095)) (fun t =>
    faultIs t .outOfBounds 0x0FFF none (some 4096)) = true := by decide
/-- T3, its second cycle. -/
theorem test_fetch_beyond_memory : after (step (State.reset.jump 0x10FE)) (fun t =>
    faultIs t .outOfBounds 0x10FE none (some 0x10FE)) = true := by decide
/-- T6, its second cycle: an odd `pc` fetches the bytes there. -/
theorem test_odd_fetch : after (step ((bytesAt 0x200 [0x12, 0x01, 0x13, 0x00, 0x00] State.reset).jump 0x201)) (fun t =>
    faultIs t .unrecognizedInstruction 0x201 (some 0x0113) none) = true := by decide
/-- T7. -/
theorem test_halted : after (step (haltedCore.withFetchWord 16 0x1ABC)) (fun t => t.pc == 0xABC) = true ∧
    after (step { word 0x1ABC with fault := haltedCore.fault }) (fun t => t.pc == 0x200) = true := by decide
/-- The codes of R240. -/
theorem test_cause_codes : Cause.outOfBounds.code = 1 ∧ Cause.stackOverflow.code = 2 ∧
    Cause.stackUnderflow.code = 3 ∧ Cause.unrecognizedInstruction.code = 4 := by decide

/-! ### Control flow -/

/-- T10. -/
theorem test_ret_underflow : after (step (word 0x00EE)) (fun t =>
    faultIs t .stackUnderflow 0x200 (some 0x00EE) none && t.sp == 0 && t.pc == 0x200) = true := by decide
/-- T11. -/
theorem test_ret : after (step { word 0x00EE with sp := 1, stack := (Vector.replicate 16 0).set 0 0x0ABC }) (fun t =>
    t.pc == 0x0ABC && t.sp == 0 && t.stack[0] == 0x0ABC) = true := by decide
/-- T12. -/
theorem test_jp : after (step (word 0x1ABC)) (fun t => t.pc == 0x0ABC && t.sp == 0) = true := by decide
/-- T13. -/
theorem test_jp_self : after (step (word 0x1200)) (fun t => t == word 0x1200) = true := by decide
/-- T14. -/
theorem test_call : after (step (word 0x2ABC)) (fun t =>
    t.stack[0] == 0x0202 && t.sp == 1 && t.pc == 0x0ABC) = true := by decide
/-- T15, S6. -/
theorem test_call_overflow : after (step { word 0x2ABC with sp := 16 }) (fun t =>
    faultIs t .stackOverflow 0x200 (some 0x2ABC) none && t.sp == 16 && t.pc == 0x200 &&
      t.stack == Vector.replicate 16 0) = true := by decide
/-- T16, T17. -/
theorem test_se_imm : after (step ((word 0x3342).setReg 3 0x42)) (fun t => t.pc == 0x204) = true := by decide
theorem test_se_imm_not : after (step ((word 0x3343).setReg 3 0x42)) (fun t => t.pc == 0x202) = true := by decide
/-- T18, T19. -/
theorem test_sne_imm_not : after (step ((word 0x4342).setReg 3 0x42)) (fun t => t.pc == 0x202) = true := by decide
theorem test_sne_imm : after (step ((word 0x4343).setReg 3 0x42)) (fun t => t.pc == 0x204) = true := by decide
/-- T20, T21. -/
theorem test_se_reg : after (step (((word 0x5120).setReg 1 7).setReg 2 7)) (fun t => t.pc == 0x204) = true := by decide
theorem test_se_reg_not : after (step (((word 0x5120).setReg 1 7).setReg 2 8)) (fun t =>
    t.pc == 0x202) = true := by decide
/-- T23, T24. -/
theorem test_sne_reg : after (step (((word 0x9120).setReg 1 7).setReg 2 8)) (fun t => t.pc == 0x204) = true := by decide
theorem test_sne_reg_not : after (step (((word 0x9120).setReg 1 7).setReg 2 7)) (fun t =>
    t.pc == 0x202) = true := by decide
/-- T26. -/
theorem test_jp_v0 : after (step (((word 0xB300).setReg 0 0x04).setReg 3 0x50)) (fun t =>
    t.pc == 0x0304 && t.index == 0) = true := by decide
/-- T3, its first cycle. -/
theorem test_jp_v0_beyond_memory : after (step ((word 0xBFFF).setReg 0 0xFF)) (fun t => t.pc == 0x10FE) = true := by decide

/-! ### Load, arithmetic, logic, shift, random -/

/-- T31. -/
theorem test_ld_imm : after (step ((word 0x6F33).setReg vF 7)) (fun t =>
    t.reg vF == 0x33 && t.pc == 0x202) = true := by decide
/-- T33. -/
theorem test_add_imm : after (step ((word 0x7002).setReg 0 0xFF)) (fun t =>
    t.reg 0 == 0x01 && t.reg vF == 0) = true := by decide
/-- T34. -/
theorem test_ld_reg : after (step ((word 0x8120).setReg 2 0x5A)) (fun t =>
    t.reg 1 == 0x5A && t.reg 2 == 0x5A) = true := by decide
/-- T35. -/
theorem test_or : after (step ((((word 0x8121).setReg 1 0xF0).setReg 2 0x0F).setReg vF 1)) (fun t =>
    t.reg 1 == 0xFF && t.reg vF == 1) = true := by decide
/-- T36. -/
theorem test_and : after (step (((word 0x8122).setReg 1 0xF3).setReg 2 0x3C)) (fun t => t.reg 1 == 0x30) = true := by decide
/-- T37, T38. -/
theorem test_xor : after (step (((word 0x8123).setReg 1 0xFF).setReg 2 0x0F)) (fun t => t.reg 1 == 0xF0) = true := by decide
theorem test_xor_self : after (step ((word 0x8113).setReg 1 0x5A)) (fun t => t.reg 1 == 0) = true := by decide
/-- S1. -/
theorem test_add : after (step (((word 0x8124).setReg 1 250).setReg 2 10)) (fun t =>
    t.reg 1 == 4 && t.reg vF == 1 && t.pc == 0x202) = true := by decide
/-- T43: VF is the destination, and the flag wins. -/
theorem test_add_into_vf : after (step (((word 0x8F24).setReg vF 0x80).setReg 2 0x90)) (fun t =>
    t.reg vF == 1) = true := by decide
/-- T44. -/
theorem test_sub_borrow : after (step (((word 0x8125).setReg 1 1).setReg 2 2)) (fun t =>
    t.reg 1 == 255 && t.reg vF == 0) = true := by decide
/-- T46: VF is a source, read before it is written. -/
theorem test_sub_from_vf : after (step (((word 0x81F5).setReg 1 7).setReg vF 3)) (fun t =>
    t.reg 1 == 4 && t.reg vF == 1) = true := by decide
/-- T47. -/
theorem test_shr : after (step (((word 0x8126).setReg 1 0xAA).setReg 2 0x05)) (fun t =>
    t.reg 1 == 0x02 && t.reg vF == 1 && t.reg 2 == 0x05) = true := by decide
/-- T49. -/
theorem test_shr_vf : after (step ((word 0x8FF6).setReg vF 3)) (fun t => t.reg vF == 1) = true := by decide
/-- T50, T51. -/
theorem test_subn_borrow : after (step (((word 0x8127).setReg 1 2).setReg 2 1)) (fun t =>
    t.reg 1 == 255 && t.reg vF == 0) = true := by decide
theorem test_subn : after (step (((word 0x8127).setReg 1 1).setReg 2 2)) (fun t =>
    t.reg 1 == 1 && t.reg vF == 1) = true := by decide
/-- T52, T53. -/
theorem test_shl : after (step ((word 0x812E).setReg 2 0x81)) (fun t => t.reg 1 == 0x02 && t.reg vF == 1) = true := by decide
theorem test_shl_no_flag : after (step (((word 0x812E).setReg 2 0x40).setReg vF 1)) (fun t =>
    t.reg 1 == 0x80 && t.reg vF == 0) = true := by decide
/-- T54. -/
theorem test_rnd : served (serve Params.default (.cycle 0xB7) (word 0xC30F)) (fun t _ =>
    t.reg 3 == 0x07 && t.pc == 0x202) = true := by decide
/-- T55: whatever the byte is, by the free value itself. -/
theorem test_rnd_masked : ∃ t, exec (.rnd 3 0x00) State.reset = .next t ∧ t.reg 3 = 0 :=
  ⟨_, rfl, by simp [State.reg, State.setReg, State.randomize]⟩

/-! ### Index and memory -/

/-- T60. -/
theorem test_ld_i : after (step (word 0xAFFF)) (fun t => t.index == 0x0FFF && t.pc == 0x202) = true := by decide
/-- T63, T64. -/
theorem test_add_i_last : after (step (((word 0xF31E).setIndex 0x0FF7).setReg vF 5)) (fun t =>
    t.index == 0x0FFF && t.reg vF == 5) = true := by decide
theorem test_add_i_overflow : after (step ((word 0xF31E).setIndex 0x0FF8)) (fun t =>
    t.index == 0 && t.reg vF == 1) = true := by decide
/-- S9, T67. -/
theorem test_ld_f : after (step ((word 0xF029).setReg 0 0x0A)) (fun t => t.index == 50) = true := by decide
theorem test_ld_f_high_nibble : after (step ((word 0xF029).setReg 0 0x1F)) (fun t => t.index == 75) = true := by decide
/-- S7. -/
theorem test_bcd : after (step (((word 0xFA33).setReg 0xA 156).setIndex 0x300)) (fun t =>
    t.mem.peek 0x300 == 1 && t.mem.peek 0x301 == 5 && t.mem.peek 0x302 == 6 && t.index == 0x300) = true := by decide
/-- T69. -/
theorem test_bcd_out : after (step (((word 0xF033).setReg 0 255).setIndex 0x0FFE)) (fun t =>
    faultIs t .outOfBounds 0x200 (some 0xF033) (some 4096) && t.mem == (word 0xF033).mem && t.pc == 0x200) = true := by decide
/-- T74. -/
theorem test_st_regs : after (step ((((word 0xF055).setReg 0 0xAB).setReg 1 0xCD).setIndex 0x400)) (fun t =>
    t.mem.peek 0x400 == 0xAB && t.mem.peek 0x401 == 0 && t.index == 0x400) = true := by decide
/-- T73. -/
theorem test_st_regs_out : after (step ((word 0xFF55).setIndex 0x0FF1)) (fun t =>
    faultIs t .outOfBounds 0x200 (some 0xFF55) (some 4096) && t.mem == (word 0xFF55).mem) = true := by decide
/-- T75. -/
theorem test_ld_regs : after (step (((bytesAt 0x300 [1, 5, 6] (word 0xF265)).setReg 3 9).setIndex 0x300)) (fun t =>
    t.reg 0 == 1 && t.reg 1 == 5 && t.reg 2 == 6 && t.reg 3 == 9 && t.index == 0x300) = true := by decide
/-- T76. -/
theorem test_ld_regs_out : after (step (((word 0xF865).setReg 0 7).setIndex 0x0FF8)) (fun t =>
    faultIs t .outOfBounds 0x200 (some 0xF865) (some 4096) && t.reg 0 == 7) = true := by decide

/-! ### Display -/

/-- T80. -/
theorem test_cls : after (step (({ word 0x00E0 with
    disp := Display.toggle State.reset.disp 63 31 } : State).setReg vF 9)) (fun t =>
    t.disp == State.reset.disp && t.reg vF == 9) = true := by decide
/-- T83, its overlap: with (2,0) and (3,0) on, the row 0xF0 at column 2 turns them off and (4,0), (5,0) on. -/
theorem test_drw_collision : after (step ((({ bytesAt 0x300 [0xF0] (word 0xD011) with
    disp := Display.toggle (Display.toggle State.reset.disp 2 0) 3 0 } : State).setReg 0 2).setIndex 0x300)) (fun t =>
    !lit t 2 0 && !lit t 3 0 && lit t 4 0 && lit t 5 0 && !lit t 6 0 && t.reg vF == 1) = true := by decide
/-- P3's first draw: the sprite wraps at the right and at the bottom. -/
theorem test_drw_wraps : after (step ((((bytesAt 0x300 [0xC3, 0x80] (word 0xD122)).setReg 1 62).setReg 2 31).setIndex
    0x300)) (fun t => lit t 62 31 && lit t 63 31 && lit t 4 31 && lit t 5 31 && lit t 62 0 &&
      !lit t 6 31 && !lit t 62 30 && t.reg vF == 0) = true := by decide

/-! ### Keys and timers -/

/-- T92, T91. -/
theorem test_skp : after (step (((word 0xE49E).setReg 4 0x1A).setKey 10 true)) (fun t => t.pc == 0x204) = true := by decide
theorem test_skp_not : after (step ((word 0xE49E).setReg 4 0x0A)) (fun t => t.pc == 0x202) = true := by decide
/-- T93, T94. -/
theorem test_sknp : after (step ((word 0xE4A1).setReg 4 0x0A)) (fun t => t.pc == 0x204) = true := by decide
theorem test_sknp_not : after (step (((word 0xE4A1).setReg 4 0x0A).setKey 10 true)) (fun t =>
    t.pc == 0x202) = true := by decide
/-- T95. -/
theorem test_ld_vx_dt : after (step ((word 0xF307).setDelay 0x3C)) (fun t => t.reg 3 == 0x3C) = true := by decide
/-- T96. -/
theorem test_ld_dt_vx : after (step ((word 0xF315).setReg 3 60)) (fun t => t.dt == 60 && t.st == 0) = true := by decide
/-- T97. -/
theorem test_ld_st_vx : after (step ((word 0xF518).setReg 5 2)) (fun t =>
    t.st == 2 && t.soundIsActive && t.dt == 0) = true := by decide
/-- T98, T99. -/
theorem test_ld_vx_k_waits : after (step (word 0xF70A)) (fun t => t == word 0xF70A) = true := by decide
theorem test_ld_vx_k : after (step (((word 0xF70A).setKey 3 true).setKey 9 true)) (fun t =>
    t.reg 7 == 3 && t.pc == 0x202) = true := by decide

/-! ### Transactions of the host -/

/-- T100, T101. -/
theorem test_tick : served (serve Params.default .tick ((State.reset.setDelay 2).setSound 1)) (fun t _ =>
    t.dt == 1 && t.st == 0 && !t.soundIsActive) = true := by decide
theorem test_tick_holds : served (serve Params.default .tick State.reset) (fun t _ => t.dt == 0 && t.st == 0) = true := by decide
/-- T103, T104. -/
theorem test_load_fits : served (serve Params.default (.load 4090 [1, 2, 3, 4, 5, 6]) State.reset) (fun t r =>
    t.mem.peek 4090 == 1 && t.mem.peek 4095 == 6 && r == .done) = true := by decide
theorem test_load_does_not_fit : served (serve Params.default (.load 4090 [1, 2, 3, 4, 5, 6, 7]) State.reset) (fun t r =>
    t == State.reset && r == .outOfBounds) = true := by decide
/-- T105 on its first five bytes: the font can be overwritten. -/
theorem test_load_over_font : served (serve Params.default (.load 0 [0, 0, 0, 0, 0]) State.reset) (fun t _ =>
    t.mem.peek 0 == 0 && t.mem.peek 4 == 0 && t.mem.peek 5 == 0x20) = true := by decide
/-- T106. -/
theorem test_sound_active : served (serve Params.default .soundActive (State.reset.setTimer 5 .sound)) (fun _ r =>
    r == .active true) = true := by decide
/-- R247: a halted core ignores a key, a tick and a timer write; a RESET ends the halt (R290). -/
theorem test_halted_core : served (serve Params.default (.keyWrite 5 true) haltedCore) (fun t _ => t == haltedCore) = true ∧
    served (serve Params.default (.timerSet .delay 5) haltedCore) (fun t _ => t == haltedCore) = true ∧
    served (serve Params.default .tick haltedCore) (fun t _ => t == haltedCore) = true ∧
    served (serve Params.default .reset haltedCore) (fun t _ => t == State.reset) = true := by decide

/-! ### Witnesses: each meets the hypotheses of the obligation it names, clause by clause -/

theorem witness_EncodeOfDecodeIsTheWord : decodeWord 0xD122#16 = some (.drw 1 2 2) := by decide

theorem witness_AssembledWordsDecodeToTheirLine : AsmLine.wellFormed ⟨.ldImm, [15, 255]⟩ = true ∧
    AsmLine.wellFormed ⟨.ldImm, [15, 256]⟩ = false := by decide

/-- `pc` at 4094, 4095, 4096 and 65535, and a running core whose fetch fails. -/
theorem witness_FetchIsBigEndianAndBounded : (State.reset.jump 4094).pc.toNat ≤ 4094 ∧
    (State.reset.jump 4095).pc.toNat = 4095 ∧ 4096 ≤ (State.reset.jump 4096).pc.toNat ∧
    4096 ≤ (State.reset.jump 65535).pc.toNat ∧
    (State.reset.jump 4095).fault = none ∧ (State.reset.jump 4095).fetch = .error 4096 :=
  ⟨by decide, by decide, by decide, by decide, rfl, rfl⟩

/-- A call in the last two bytes of memory. -/
theorem witness_StepRunsTheDecodedInstruction :
    ((bytesAt 4094 [0x22, 0x0A] State.reset).jump 4094).fault = none ∧
    ((bytesAt 4094 [0x22, 0x0A] State.reset).jump 4094).pc.toNat ≤ 4094 ∧
    decodeWord (wordOfBytes ((bytesAt 4094 [0x22, 0x0A] State.reset).mem.peek 4094)
      ((bytesAt 4094 [0x22, 0x0A] State.reset).mem.peek 4095)) = some (.call 0x20A) := by decide

theorem witness_IllegalWordsAreRecorded : (word 0x5121).fault = none ∧
    (word 0x5121).fetch = .ok 0x5121 ∧ decodeWord 0x5121#16 = none := ⟨rfl, rfl, by decide⟩

theorem witness_HaltLastsUntilReset : haltedCore.fault ≠ none ∧
    Transaction.reset ∉ [.cycle 0, .tick, .keyWrite 3 true, .load 0x200 [1], .timerSet .delay 9] := by decide

/-- A fetch that faults, and a handler that does. -/
theorem witness_FaultsArePrecise :
    (∃ t, (State.reset.jump 4095).fault = none ∧ step (State.reset.jump 4095) = .next t ∧ t.fault ≠ none ∧
      (State.reset.jump 4095).fetch = .error 4096) ∧
    ∃ t, (word 0x00EE).fault = none ∧ step (word 0x00EE) = .next t ∧ t.fault ≠ none ∧
      (word 0x00EE).fetch = .ok 0x00EE :=
  ⟨⟨_, rfl, rfl, by decide, rfl⟩, ⟨_, rfl, rfl, by decide, rfl⟩⟩

theorem witness_CyclesFaultExactlyAsTabulated : (word 0x2ABC).fault = none ∧ (word 0x2ABC).sp.toNat ≤ 16 ∧
    corner.fault = none ∧ corner.sp.toNat ≤ 16 := by decide

theorem witness_PlacedInstructionRunsNext : corner.mem.wf = true ∧ (word 0x2ABC).mem.wf = true := by decide

/-- V0 and V1 stored in the last two bytes of memory. -/
theorem witness_StoredRegistersAreFetched : ∃ t, (word 0xF155).mem.wf = true ∧
    ((word 0xF155).setIndex 4094).index.toNat + (1#4).toNat ≤ 4095 ∧ (1#4).toNat = (0#4).toNat + 1 ∧
    (1#4).toNat ≤ (1#4).toNat ∧ (4094#16).toNat = ((word 0xF155).setIndex 4094).index.toNat + (0#4).toNat ∧
    exec (.stRegs 1) ((word 0xF155).setIndex 4094) = .next t :=
  ⟨_, by decide, by decide, by decide, by decide, by decide, rfl⟩

/-- An instruction that completes and one that faults. -/
theorem witness_InstructionsWriteOnlyWhatTheyList :
    (∃ t, exec (.addReg 1 2) State.reset = .next t ∧ t.fault = State.reset.fault) ∧
    ∃ t, exec .ret State.reset = .next t ∧ t.fault ≠ State.reset.fault :=
  ⟨⟨_, rfl, rfl⟩, ⟨_, rfl, by decide⟩⟩

/-- For each clause, an instruction that changes that state. -/
theorem witness_EachStateHasItsOwnWriters :
    (∃ t, exec .cls { State.reset with disp := Display.toggle State.reset.disp 0 0 } = .next t ∧
      t.disp ≠ Display.toggle State.reset.disp 0 0) ∧
    (∃ t, exec (.bcd 0) ((State.reset.setReg 0 255).setIndex 0x300) = .next t ∧ t.mem ≠ State.reset.mem) ∧
    (∃ t, exec (.call 0x300) State.reset = .next t ∧ t.stack ≠ State.reset.stack ∧ t.sp ≠ State.reset.sp) ∧
    (∃ t, exec (.ldDtVx 1) (State.reset.setReg 1 7) = .next t ∧ t.dt ≠ State.reset.dt) ∧
    (∃ t, exec (.ldStVx 1) (State.reset.setReg 1 7) = .next t ∧ t.st ≠ State.reset.st) ∧
    (∃ t, exec (.ldI 0x300) State.reset = .next t ∧ t.index ≠ State.reset.index) :=
  ⟨⟨_, rfl, by decide⟩, ⟨_, rfl, by decide⟩, ⟨_, rfl, by decide, by decide⟩, ⟨_, rfl, by decide⟩,
    ⟨_, rfl, by decide⟩, ⟨_, rfl, by decide⟩⟩

/-- VF as a flag, and VF as the destination. -/
theorem witness_FlagRegisterHasItsOwnWriters :
    (∃ t, exec (.sub 1 2) State.reset = .next t ∧ t.reg vF ≠ State.reset.reg vF) ∧
    ∃ t, exec (.ldImm 15 7) State.reset = .next t ∧ t.reg vF ≠ State.reset.reg vF :=
  ⟨⟨_, rfl, by decide⟩, ⟨_, rfl, by decide⟩⟩

theorem witness_OnlyRndReadsTheRandomByte : ∃ t, Instr.isRnd (.ldImm 1 7) = false ∧
    exec (.ldImm 1 7) State.reset = .next t := ⟨_, by decide, rfl⟩

/-- A state at the ends of the ranges of the invariant meets it. -/
theorem corner_inv : corner.Inv where
  mem := by decide
  index := by decide
  pc := by decide
  sp := by decide
  stack := by decide
  fault := nofun

theorem witness_StepKeepsTheInvariant : ∃ t, corner.Inv ∧ step corner = .next t := ⟨_, corner_inv, rfl⟩

theorem witness_ReachableStatesMeetTheInvariant :
    (∃ r, corner.Inv ∧ serve Params.default .tick corner = .next r) ∧
    ∃ r : Served, serve Params.default (.load 0x200 [0x12, 0x00]) (State.resetFor Params.default) = .next r ∧ Reachable Params.default r.state :=
  ⟨⟨_, corner_inv, rfl⟩, ⟨_, rfl, .serve (State.resetFor Params.default) (.load 0x200 [0x12, 0x00]) _ .reset rfl⟩⟩

theorem witness_InvariantStatesAlwaysStep : corner.Inv := corner_inv

theorem witness_ResetPlacesFontAndProgramCounter : (79 ≤ 79) ∧ (80 ≤ 80 ∧ 80 ≤ 4095) ∧ (80 ≤ 4095 ∧ 4095 ≤ 4095) := by
  decide

/-- The ends of memory, the first address beyond, and two different addresses. -/
theorem witness_WritesChangeOneByte : (bytesAt 0x300 [7] State.reset).mem.wf = true ∧ 4096 ≤ 4096 ∧ 4095 < 4096 ∧
    0 < 4096 ∧ 0 ≠ 4095 := by decide

theorem witness_CopyInIsAllOrNothing : (bytesAt 0x300 [7] State.reset).mem.wf = true ∧
    4090 + [1#8, 2#8, 3#8, 4#8, 5#8, 6#8, 7#8].length > 4096 ∧ 4090 + [1#8, 2#8, 3#8, 4#8, 5#8, 6#8].length ≤ 4096 ∧
    0 < [1#8, 2#8, 3#8, 4#8, 5#8, 6#8].length ∧ 4089 < 4090 ∧ 4090 + 6 ≤ 4096 := by decide

/-- The same byte written twice and once. -/
theorem witness_EqualBytesAreEqualMemories :
    (bytesAt 0x300 [7] (bytesAt 0x300 [9] State.reset)).mem.wf = true ∧ (bytesAt 0x300 [7] State.reset).mem.wf = true ∧
    ∀ a, (bytesAt 0x300 [7] (bytesAt 0x300 [9] State.reset)).mem.peek a = (bytesAt 0x300 [7] State.reset).mem.peek a :=
  ⟨by decide, by decide, fun _ => rfl⟩

theorem witness_JumpGoesToItsAddress : (0xFFF#12 = 0xFFF) ∧ State.reset.pc.toNat = (0x200#12).toNat := by decide

/-- `JP 0x200` at 0x200, and `JP 0xFFE` in the last two bytes of memory. -/
theorem witness_SelfJumpIsAFixedPoint :
    ((word 0x1200).fault = none ∧ (word 0x1200).pc.toNat ≤ 4094 ∧
      ((word 0x1200).mem.peek (word 0x1200).pc.toNat).toNat = 16 + (word 0x1200).pc.toNat / 256 ∧
      ((word 0x1200).mem.peek ((word 0x1200).pc.toNat + 1)).toNat = (word 0x1200).pc.toNat % 256) ∧
    ((bytesAt 4094 [0x1F, 0xFE] State.reset).mem.peek 4094).toNat = 16 + 4094 / 256 ∧
    ((bytesAt 4094 [0x1F, 0xFE] State.reset).mem.peek 4095).toNat = 4094 % 256 := by decide

theorem witness_CallPushesTheReturnAddress : State.reset.sp.toNat < 16 ∧
    ({ State.reset with sp := 15 } : State).sp.toNat < 16 ∧ (15 : Fin 16).val = (15#8).toNat ∧
    corner.sp.toNat = 16 := by decide

theorem witness_ReturnPopsTheTopAddress : 1 ≤ ({ State.reset with sp := 1 } : State).sp.toNat ∧
    ({ State.reset with sp := 1 } : State).sp.toNat ≤ 16 ∧ 1 ≤ corner.sp.toNat ∧ corner.sp.toNat ≤ 16 ∧
    (15 : Fin 16).val = corner.sp.toNat - 1 ∧ State.reset.sp.toNat = 0 := by decide

theorem witness_CallsNestSixteenDeepAndReturn : ({ State.reset with sp := 15 } : State).sp.toNat < 16 ∧
    State.reset.fault = none ∧ State.reset.sp = 0 ∧ (List.replicate 16 (0x200#12)).length = 16 := by decide

theorem witness_AbsentStackCellsStop : 16 < ({ State.reset with sp := 17 } : State).sp.toNat ∧
    16 < ({ State.reset with sp := 255 } : State).sp.toNat := by decide

theorem witness_RegisterSkipsPassOneWord :
    (1#4 ≠ 0 ∧ (word 0x5121).fault = none ∧ (word 0x5121).fetch = .ok (0x5#4 ++ 1#4 ++ 2#4 ++ 1#4)) ∧
    15#4 ≠ 0 ∧ (word 0x9FFF).fault = none ∧ (word 0x9FFF).fetch = .ok (0x9#4 ++ 15#4 ++ 15#4 ++ 15#4) :=
  ⟨⟨by decide, rfl, rfl⟩, by decide, rfl, rfl⟩

/-- The least sum that cannot be fetched at, and the greatest sum. -/
theorem witness_OffsetJumpAddsV0 : 4095 ≤ (0xFFF#12).toNat + (State.reset.reg v0).toNat ∧
    4095 ≤ (0xFFF#12).toNat + ((State.reset.setReg v0 255).reg v0).toNat := by decide

theorem witness_AddWritesSumThenCarry : (0#4 ≠ vF) ∧ (14#4 ≠ vF) := by decide

theorem witness_SubtractionsWriteNoBorrow : (0#4 ≠ vF) ∧ (14#4 ≠ vF) := by decide

theorem witness_ShiftsMoveVyByOneBit : (0#4 ≠ vF) ∧ (14#4 ≠ vF) := by decide

theorem witness_RandomByteIsMasked : (0x0F#8).getLsbD 4 = false ∧ (0x00#8).getLsbD 0 = false := by decide

theorem witness_AddToIndexAddsEight : (State.reset.setIndex 0xFF8).index.toNat + 8 > 0x0FFF ∧
    (State.reset.setIndex 0xFF7).index.toNat + 8 ≤ 0x0FFF := by decide

theorem witness_BcdStoresThreeDigits : corner.mem.wf = true ∧ (State.reset.setIndex 4093).index.toNat + 2 < 4096 ∧
    (State.reset.setIndex 4094).index.toNat + 2 ≥ 4096 := by decide

theorem witness_StoreRegistersCopiesV0ToVx : corner.mem.wf = true ∧
    (State.reset.setIndex 0xFF0).index.toNat + (15#4).toNat < 4096 ∧ (15#4).toNat ≤ (15#4).toNat ∧
    (State.reset.setIndex 0xFF1).index.toNat + (15#4).toNat ≥ 4096 := by decide

theorem witness_LoadRegistersFillsV0ToVx : (State.reset.setIndex 0xFF0).index.toNat + (15#4).toNat < 4096 ∧
    (0#4).toNat ≤ (15#4).toNat ∧ (State.reset.setIndex 0xFF1).index.toNat + (15#4).toNat ≥ 4096 := by decide

/-- The memory and the index of the state after a ST_REGS, with other registers. -/
theorem witness_LoadUndoesStore : ∃ t u : State, State.reset.mem.wf = true ∧
    (State.reset.setIndex 0xFF0).index.toNat + (15#4).toNat < 4096 ∧
    exec (.stRegs 15) (State.reset.setIndex 0xFF0) = .next t ∧ u.mem = t.mem ∧ u.index = t.index ∧
    u.reg 3 ≠ t.reg 3 ∧ (3#4).toNat ≤ (15#4).toNat :=
  ⟨_, ((State.reset.setIndex 0xFF0).advance.setReg 3 9), by decide, by decide, rfl, by decide, by decide, by decide,
    by decide⟩

/-- `N` = 0, a sprite that ends with the memory, one that does not, a covered cell (on, then off) and another. -/
theorem witness_DrawTogglesTheCoveredCells :
    ((0#4).toNat = 0 ∨ corner.index.toNat + (0#4).toNat - 1 < 4096) ∧
    ((1#4).toNat = 0 ∨ corner.index.toNat + (1#4).toNat - 1 < 4096) ∧
    ((2#4).toNat ≥ 1 ∧ corner.index.toNat + (2#4).toNat - 1 ≥ 4096) ∧
    ((bytesAt 0x300 [0x80] State.reset).setIndex 0x300).spriteCovers 63 31 1 63 31 ∧
    ¬ State.reset.spriteCovers 63 31 0 63 31 ∧
    Display.cell (Display.toggle State.reset.disp 63 31) 63 31 = true ∧
    Display.cell State.reset.disp 63 31 = false :=
  ⟨by decide, by decide, by decide, ⟨0, 0, by decide⟩, fun ⟨_, _, h, _⟩ => absurd h (Nat.not_lt_zero _), by decide,
    by decide⟩

theorem witness_DrawingTwiceRestoresTheDisplay : (0#4 ≠ vF) ∧ (14#4 ≠ vF) ∧
    ((0#4).toNat = 0 ∨ corner.index.toNat + (0#4).toNat - 1 < 4096) ∧
    ((15#4).toNat = 0 ∨ (State.reset.setIndex 0xFF1).index.toNat + (15#4).toNat - 1 < 4096) := by decide

/-- The key of a byte whose high nibble is not zero; it is down, or up. -/
theorem witness_KeySkipsTestTheLowNibbleKey : (10#4).toNat = ((State.reset.setReg 4 0x1A).reg 4).toNat % 16 ∧
    ((State.reset.setReg 4 0x1A).setKey 10 true).key 10 = true ∧ (State.reset.setReg 4 0x1A).key 10 = false := by decide

/-- An instruction that reads the other timer, and one that faults. -/
theorem witness_TimerInstructionsMoveOneByte :
    (∃ t, Instr.mnemonic (.ldVxDt 3) ≠ .ldStVx ∧ exec (.ldVxDt 3) (State.reset.setDelay 0x3C) = .next t) ∧
    ∃ t, Instr.mnemonic .ret ≠ .ldStVx ∧ exec .ret State.reset = .next t :=
  ⟨⟨_, by decide, rfl⟩, _, by decide, rfl⟩

theorem witness_GetKeyWaitsThenStoresAPressedKey : (∀ k, State.reset.key k = false) ∧
    (∃ k, (State.reset.setKey 15 true).key k = true) ∧
    ((State.reset.setKey 3 true).setKey 9 true).pressed = [3, 9] := ⟨by decide, ⟨15, by decide⟩, by decide⟩

theorem witness_TickCountsBothTimersDownToZero : State.reset.fault = none ∧ corner.fault = none := by decide

theorem witness_HostWritesKeysAndTimers : State.reset.fault = none ∧ corner.fault = none := by decide

theorem witness_LoadPlacesBytesOrReports : corner.fault = none ∧ corner.mem.wf = true ∧
    4095 + [7#8].length ≤ 4096 ∧ 4096 + [7#8].length > 4096 ∧ 4096 + ([] : List Byte).length ≤ 4096 ∧
    0 < [7#8].length ∧ 4094 < 4095 := by decide

/-- A RESET and a LOAD, from two different states. -/
theorem witness_ResetRestoresTheResetState : haltedCore ≠ corner ∧
    ∃ t, serveAll Params.default [.reset, .load 0x200 [0x12, 0x00]] haltedCore = .next t := ⟨by decide, _, rfl⟩

/-- A CALL, and a LD_VX_K with one key down. -/
theorem witness_CycleTransactionIsStep :
    (∃ t, step (word 0x220A) = .next t) ∧
    ∃ t, step ((word 0xF70A).setKey 3 true) = .next t ∧
      ∀ w i, ((word 0xF70A).setKey 3 true).fetch = .ok w → decodeWord w = some i →
        i.isRnd = false ∧ ((∃ x, i = .ldVxK x) → ((word 0xF70A).setKey 3 true).pressed.length ≤ 1) :=
  ⟨⟨_, rfl⟩, _, rfl, fun w i hw hi => by
    have h : ((word 0xF70A).setKey 3 true).fetch = .ok 0xF70A := rfl
    rw [h] at hw
    cases hw
    have h' : decodeWord 0xF70A#16 = some (.ldVxK 7) := by decide
    cases h'.symm.trans hi
    exact ⟨by decide, fun _ => by decide⟩⟩

end Sys2Proof.Tests
end

