-- ==== Sys2Proof/Proofs/Reset.lean ====
section
/-! The reset state through the bounds-checked read (spec/10_state.md R40). -/

namespace Sys2Proof.Machine

theorem Memory.read_of_lt (m : Memory) {a : Nat} (h : a < 4096) : m.read a = .ok (m.peek a) := if_pos h

theorem State.resetFor_read_font (p : Params) {a : Nat} (h : a ≤ 79) :
    (State.resetFor p).mem.read a = .ok (p.font.getD a 0) := by
  rw [Memory.read_of_lt _ (by omega), State.resetFor_peek_font p (by omega)]

theorem State.resetFor_read_above (p : Params) {a : Nat} (h : 80 ≤ a) (h' : a ≤ 4095) :
    (State.resetFor p).mem.read a = .ok 0 := by
  rw [Memory.read_of_lt _ (by omega), State.resetFor_peek_above p h]

/-- R40 whole, for a machine with any FONT_TABLE. -/
theorem State.resetFor_startup (p : Params) : (State.resetFor p).pc = 0x0200 ∧ p.font.length = 80 ∧
    (∀ a, a ≤ 79 → (State.resetFor p).mem.read a = .ok (p.font.getD a 0)) ∧
    ∀ a, 80 ≤ a → a ≤ 4095 → (State.resetFor p).mem.read a = .ok 0 :=
  ⟨rfl, p.fontBytes, fun _ => State.resetFor_read_font p, fun _ => State.resetFor_read_above p⟩

/-- Settles O23: what holds for any parameters holds of `State.reset`, the reset state at their defaults. -/
theorem resetPlacesFontAndProgramCounter : Obligations.ResetPlacesFontAndProgramCounter := by
  refine ⟨?_, State.resetFor_startup⟩
  have h := State.resetFor_startup Params.default
  rwa [State.resetFor_default] at h

end Sys2Proof.Machine
end

/-! Memory through the bounds-checked accesses, the bulk copy and the fetch (spec/20_memory.md R61, R62, R64, R67;
spec/40_cycle.md R121). -/

namespace Sys2Proof

/-- The high byte of a word comes back from it (R67). -/
@[simp] theorem wordOfBytes_high (hi lo : Byte) : (wordOfBytes hi lo).extractLsb' 8 8 = hi :=
  BitVec.extractLsb'_append_eq_left

/-- The low byte of a word comes back from it (R67). -/
@[simp] theorem wordOfBytes_low (hi lo : Byte) : (wordOfBytes hi lo).extractLsb' 0 8 = lo :=
  BitVec.extractLsb'_append_eq_right

end Sys2Proof

namespace Sys2Proof.Machine

/-! ### One byte (R61, R62) -/

theorem Memory.read_of_ge (m : Memory) {a : Nat} (h : 4096 ≤ a) : m.read a = .error a := if_neg (Nat.not_lt.2 h)

theorem Memory.write_of_lt (m : Memory) {a : Nat} (v : Byte) (h : a < 4096) : m.write a v = .ok (m.poke a v) :=
  if_pos h

theorem Memory.write_of_ge (m : Memory) {a : Nat} (v : Byte) (h : 4096 ≤ a) : m.write a v = .error a :=
  if_neg (Nat.not_lt.2 h)

/-- The bounds check looks at the address alone, so equal bytes read the same inside memory and beyond it. -/
theorem Memory.read_congr {m m' : Memory} {a : Nat} (h : m'.peek a = m.peek a) : m'.read a = m.read a := by
  simp only [Memory.read, h]

/-- Settles O25: a write is a `poke`, which changes what is read at its own address only. -/
theorem writesChangeOneByte : Obligations.WritesChangeOneByte := by
  intro m a v hw
  constructor
  · intro h
    exact ⟨m.read_of_ge h, m.write_of_ge v h⟩
  · intro h
    refine ⟨⟨m.peek a, m.read_of_lt h⟩, m.poke a v, m.write_of_lt v h, Memory.poke_wf hw h v, ?_, fun b hb => ?_⟩
    · rw [Memory.read_of_lt _ h, Memory.peek_poke_same hw]
    · exact Memory.read_congr (Memory.peek_poke_other hb v m)

/-! ### The bulk copy (R64) -/

theorem Memory.copyIn_of_gt (m : Memory) {start : Nat} {bytes : List Byte} (h : start + bytes.length > 4096) :
    m.copyIn start bytes = none := if_pos h

theorem Memory.copyIn_of_le (m : Memory) {start : Nat} {bytes : List Byte} (h : start + bytes.length ≤ 4096) :
    m.copyIn start bytes = some (m.pokeMany start bytes) := if_neg (Nat.not_lt.2 h)

/-- Settles O26: the test on the sum decides, and where it passes the copy is a `pokeMany` of all the bytes. -/
theorem copyInIsAllOrNothing : Obligations.CopyInIsAllOrNothing := by
  intro m start bytes hw
  refine ⟨m.copyIn_of_gt, fun hfit => ?_⟩
  refine ⟨m.pokeMany start bytes, m.copyIn_of_le hfit, Memory.pokeMany_wf hw hfit, ?_, ?_⟩
  · exact fun _ hk => Memory.peek_pokeMany hw hfit hk
  · exact fun _ hout => Memory.peek_pokeMany_other hout

/-! ### The fetch (R67, R121) -/

theorem State.fetch_of_le (s : State) (h : s.pc.toNat ≤ 4094) :
    s.fetch = .ok (wordOfBytes (s.mem.peek s.pc.toNat) (s.mem.peek (s.pc.toNat + 1))) := by
  obtain ⟨_, hok⟩ | ⟨hge, _⟩ := s.fetch_cases
  · exact hok
  · omega

theorem State.fetch_of_ge (s : State) (h : 4095 ≤ s.pc.toNat) : s.fetch = .error (max s.pc.toNat 4096) := by
  obtain ⟨hle, _⟩ | ⟨_, herr⟩ := s.fetch_cases
  · omega
  · exact herr

/-- Settles O7: the fetch answers by where `pc` is, and the step after a failed one raises the record without a word. -/
theorem fetchIsBigEndianAndBounded : Obligations.FetchIsBigEndianAndBounded := by
  intro s
  refine ⟨fun h => ?_, fun h => ?_, fun h => ?_, fun a hrun herr => ?_⟩
  · exact ⟨_, s.fetch_of_le h, wordOfBytes_high _ _, wordOfBytes_low _ _⟩
  · rw [s.fetch_of_ge (by omega), h]
    rfl
  · rw [s.fetch_of_ge (by omega), Nat.max_eq_left h]
  · exact ⟨_, _, step_of_fetch_error hrun herr, rfl, rfl, rfl, rfl⟩

end Sys2Proof.Machine

/-! Control flow (spec/41_flow.md): jump, call, return and the register skips. -/

namespace Sys2Proof.Machine

/-! ### Jump (R141) -/

theorem exec_jp (nnn : Addr) (s : State) : exec (.jp nnn) s = .next (s.jump (zext16 nnn)) := rfl

/-- A jump to the address of the instruction itself is no change (R141). -/
theorem State.jump_zext16_self {nnn : Addr} {s : State} (h : s.pc.toNat = nnn.toNat) : s.jump (zext16 nnn) = s := by
  have hpc : zext16 nnn = s.pc := BitVec.eq_of_toNat_eq ((zext16_toNat nnn).trans h.symm)
  rw [hpc]
  rfl

/-- Settles O28: JP is `State.jump`, whose frame is `unchanged_jump`; at 0xFFF the low byte of the next fetch is the one
that is out of bounds. -/
theorem jumpGoesToItsAddress : Obligations.JumpGoesToItsAddress := by
  intro nnn s
  refine ⟨rfl, ⟨_, exec_jp nnn s, zext16_toNat nnn, unchanged_jump s _, ?_⟩, fun hself => ?_⟩
  · rintro rfl
    have hpc : (s.jump (zext16 0xFFF)).pc.toNat = 4095 := rfl
    rw [State.fetch_of_ge _ hpc.ge, hpc]
    rfl
  · rw [exec_jp, State.jump_zext16_self hself]

/-! ### Call and return (R140, R142) -/

theorem State.push_of_lt (s : State) (v : Word) (h : s.sp.toNat < 16) :
    s.push v = .ok { s with stack := s.stack.set s.sp.toNat v h, sp := s.sp + 1 } := by
  obtain ⟨_, _⟩ | ⟨_, hok⟩ | ⟨_, _⟩ := s.push_cases v
  · omega
  · exact hok
  · omega

theorem State.push_of_full (s : State) (v : Word) (h : s.sp.toNat = 16) : s.push v = .error .full := by
  obtain ⟨_, herr⟩ | ⟨_, _⟩ | ⟨_, _⟩ := s.push_cases v
  · exact herr
  · omega
  · omega

theorem State.pop_of_pos (s : State) (hpos : 1 ≤ s.sp.toNat) (hle : s.sp.toNat ≤ 16) :
    s.pop = .ok (s.stack[s.sp.toNat - 1], { s with sp := s.sp - 1 }) := by
  obtain ⟨_, _⟩ | ⟨_, _, hok⟩ | ⟨_, _⟩ := s.pop_cases
  · omega
  · exact hok
  · omega

theorem State.pop_of_empty (s : State) (h : s.sp.toNat = 0) : s.pop = .error .empty := by
  obtain ⟨_, herr⟩ | ⟨_, _, _⟩ | ⟨_, _⟩ := s.pop_cases
  · exact herr
  · omega
  · omega

/-- CALL with room on the stack (R29). -/
theorem exec_call_of_lt (nnn : Addr) {s : State} (h : s.sp.toNat < 16) :
    exec (.call nnn) s =
      .next { s with stack := s.stack.set s.sp.toNat (s.pc + 2) h, sp := s.sp + 1, pc := zext16 nnn } := by
  change execCall nnn s = _
  rw [execCall, s.advance.push_of_lt _ h]
  rfl

/-- CALL with a full stack (R243). -/
theorem exec_call_of_full (nnn : Addr) {s : State} (h : s.sp.toNat = 16) :
    exec (.call nnn) s = .next (s.raise .stackOverflow (some (encode (.call nnn))) none) := by
  change execCall nnn s = _
  rw [execCall, s.advance.push_of_full _ h]
  rfl

/-- The frame of a push followed by a jump: the stack pointer, the cell it named and `pc`. -/
theorem unchanged_push_jump (s : State) (v p : Word) (h : s.sp.toNat < 16) :
    Unchanged { sp := true, stack := fun k => k.val == s.sp.toNat } s
      { s with stack := s.stack.set s.sp.toNat v h, sp := s.sp + 1, pc := p } where
  regs _ _ := rfl
  index _ := rfl
  sp hsp := nomatch hsp
  stack k hk := Vector.getElem_set_ne h k.isLt (beq_eq_false_iff_ne.1 hk).symm
  dt _ := rfl
  st _ := rfl
  keys := rfl
  disp _ := rfl
  mem _ _ := rfl
  fault := rfl
  draws _ := rfl

/-- Settles O30: with room CALL is a push of the advanced `pc` and a jump, and with none it is the record alone. -/
theorem callPushesTheReturnAddress : Obligations.CallPushesTheReturnAddress := by
  intro nnn s
  refine ⟨rfl, fun hroom => ?_, fun hfull => ⟨_, rfl, exec_call_of_full nnn hfull⟩⟩
  refine ⟨_, exec_call_of_lt nnn hroom, zext16_toNat nnn, ?_, fun k hk => ?_, unchanged_push_jump s _ _ hroom⟩
  · change (s.sp + 1).toNat = _
    bv_omega
  · simp [hk]

/-- RET with a return address on the stack (R30). -/
theorem exec_ret_of_pos {s : State} (hpos : 1 ≤ s.sp.toNat) (hle : s.sp.toNat ≤ 16) :
    exec .ret s = .next { s with sp := s.sp - 1, pc := s.stack[s.sp.toNat - 1] } := by
  change execRet s = _
  rw [execRet, s.advance.pop_of_pos hpos hle]
  rfl

/-- RET with an empty stack (R244). -/
theorem exec_ret_of_empty {s : State} (h : s.sp.toNat = 0) :
    exec .ret s = .next (s.raise .stackUnderflow (some (encode .ret)) none) := by
  change execRet s = _
  rw [execRet, s.advance.pop_of_empty h]
  rfl

/-- The frame of a pop followed by a jump: the stack pointer and `pc`; the popped cell keeps its value (R30). -/
theorem unchanged_pop_jump (s : State) (p : Word) : Unchanged { sp := true } s { s with sp := s.sp - 1, pc := p } where
  regs _ _ := rfl
  index _ := rfl
  sp hsp := nomatch hsp
  stack _ _ := rfl
  dt _ := rfl
  st _ := rfl
  keys := rfl
  disp _ := rfl
  mem _ _ := rfl
  fault := rfl
  draws _ := rfl

/-- Settles O31: with an address there RET pops it and jumps to it, and with none it is the record alone. -/
theorem returnPopsTheTopAddress : Obligations.ReturnPopsTheTopAddress := by
  intro s
  refine ⟨rfl, fun hpos hle => ?_, fun hempty => ⟨_, rfl, exec_ret_of_empty hempty⟩⟩
  refine ⟨_, exec_ret_of_pos hpos hle, ?_, fun k hk => ?_, unchanged_pop_jump s _⟩
  · change (s.sp - 1).toNat = _
    bv_omega
  · simp [hk]

/-! ### Register skips (R143 to R146) -/

/-- What every skip does, whatever its condition is (R148). -/
theorem exec_skip {i : Instr} {s : State} {c : Bool} (h : exec i s = .next (s.skipIf c)) :
    ∃ t, exec i s = .next t ∧ Unchanged {} s t ∧ t.pc = if c then s.pc + 4 else s.pc + 2 := by
  refine ⟨_, h, unchanged_skipIf s c, ?_⟩
  rw [State.skipIf_eq, State.jump_pc]

/-- 5XYN and 9XYN with `N` not 0 are no instructions (R98). -/
theorem decodeWord_regSkip_of_ne {op : BitVec 4} (hop : op = 0x5#4 ∨ op = 0x9#4) (x y : RegIx) {n : BitVec 4}
    (hn : n ≠ 0) : decodeWord (op ++ x ++ y ++ n) = none := by
  rw [decodeWord, fieldsOf_nibbles]
  obtain rfl | rfl := hop
  · exact congrArg (Option.map _) (if_neg hn)
  · exact congrArg (Option.map _) (if_neg hn)

/-- Settles O34: each of the four is a skip on its own condition, and the two words with a last nibble do not decode. -/
theorem registerSkipsPassOneWord : Obligations.RegisterSkipsPassOneWord := by
  intro x y nn s
  refine ⟨⟨rfl, rfl, rfl, rfl⟩, ?seImm, ?sneImm, ?seReg, ?sneReg, fun n u hn hrun hfetch => ?illegal⟩
  case seImm => simpa using exec_skip (i := .seImm x nn) (s := s) rfl
  case sneImm => simpa using exec_skip (i := .sneImm x nn) (s := s) rfl
  case seReg => simpa using exec_skip (i := .seReg x y) (s := s) rfl
  case sneReg => simpa using exec_skip (i := .sneReg x y) (s := s) rfl
  case illegal =>
    obtain hfive | hnine := hfetch
    · exact ⟨_, _, step_of_illegal hrun hfive (decodeWord_regSkip_of_ne (.inl rfl) x y hn), rfl, rfl⟩
    · exact ⟨_, _, step_of_illegal hrun hnine (decodeWord_regSkip_of_ne (.inr rfl) x y hn), rfl, rfl⟩

end Sys2Proof.Machine

/-! Register loads, immediate addition and logic (spec/42_load_alu.md R160 to R165): the writers of `Vx` alone. -/

namespace Sys2Proof.Machine

/-- What every instruction does that writes a byte to `Vx` and no flag, whatever the byte is (R122, R171). -/
theorem exec_writesReg {i : Instr} {s : State} {x : RegIx} {v : Byte} (h : exec i s = .next (s.advance.setReg x v)) :
    ∃ t, exec i s = .next t ∧ t.reg x = v ∧ t.pc = s.pc + 2 ∧ Unchanged { regs := fun r => r == x } s t :=
  ⟨_, h, State.setReg_reg_same _ x v, rfl, unchanged_setReg s x v⟩

/-- The same, with the byte given bit by bit. -/
theorem exec_writesReg_bits {i : Instr} {s : State} {x : RegIx} {v : Byte} {bit : Nat → Bool}
    (h : exec i s = .next (s.advance.setReg x v)) (hbit : ∀ k, v.getLsbD k = bit k) :
    ∃ t, exec i s = .next t ∧ t.pc = s.pc + 2 ∧ Unchanged { regs := fun r => r == x } s t ∧
      ∀ k, (t.reg x).getLsbD k = bit k := by
  obtain ⟨t, hexec, hreg, hpc, hframe⟩ := exec_writesReg h
  exact ⟨t, hexec, hpc, hframe, hreg ▸ hbit⟩

/-- Settles O36: both write `Vx` alone, and the byte that ADD_IMM writes is a sum of bytes, which wraps. -/
theorem immediatesLoadAndAdd : Obligations.ImmediatesLoadAndAdd := by
  intro x nn s
  refine ⟨⟨rfl, rfl⟩, exec_writesReg rfl, ?_⟩
  obtain ⟨t, hexec, hreg, hpc, hframe⟩ := exec_writesReg (i := .addImm x nn) (s := s) rfl
  exact ⟨t, hexec, hreg ▸ BitVec.toNat_add _ _, hpc, hframe⟩

/-- Settles O37: all four write `Vx` alone, and the operations on bytes are the operations on each bit. -/
theorem copyAndLogicLeaveTheFlag : Obligations.CopyAndLogicLeaveTheFlag := by
  intro x y s
  refine ⟨⟨rfl, rfl, rfl, rfl⟩, exec_writesReg rfl, ?or, ?and, ?xor⟩
  case or => exact exec_writesReg_bits rfl fun _ => BitVec.getLsbD_or
  case and => exact exec_writesReg_bits rfl fun _ => BitVec.getLsbD_and
  case xor => exact exec_writesReg_bits rfl fun _ => BitVec.getLsbD_xor

end Sys2Proof.Machine

/-! The index register and BCD (spec/43_index_memory.md R190, R192, R193). -/

namespace Sys2Proof.Machine

/-- What every instruction does that writes `I` alone, whatever the value is (R122). -/
theorem exec_writesIndex {i : Instr} {s : State} {v : Word} (h : exec i s = .next (s.advance.setIndex v)) :
    ∃ t, exec i s = .next t ∧ t.index.toNat = v.toNat ∧ t.pc = s.pc + 2 ∧ Unchanged { index := true } s t :=
  ⟨_, h, rfl, rfl, unchanged_setIndex s v⟩

/-- Settles O42: both write `I` alone, one the widened address and the other the address of the glyph. -/
theorem indexIsSetToAddressOrGlyph : Obligations.IndexIsSetToAddressOrGlyph := by
  intro nnn x s
  refine ⟨⟨rfl, rfl⟩, ?ldI, ?ldF⟩
  case ldI => simpa only [zext16_toNat] using exec_writesIndex (i := .ldI nnn) (s := s) rfl
  case ldF => simpa only [glyphAddress_toNat] using exec_writesIndex (i := .ldF x) (s := s) rfl

/-! ### BCD (R193, R194) -/

theorem exec_bcd_of_fits (x : RegIx) {s : State} (h : s.index.toNat + 2 < 4096) :
    exec (.bcd x) s = .next (s.advance.setMem (s.mem.pokeMany s.index.toNat (bcdDigits (s.reg x)))) := by
  have hfit : s.base + (bcdDigits (s.reg x)).length ≤ 4096 := h
  show execBcd x s = _
  rw [execBcd, s.mem.writeRange_ok (.inr hfit)]
  rfl

theorem exec_bcd_of_out (x : RegIx) {s : State} (h : s.index.toNat + 2 ≥ 4096) :
    exec (.bcd x) s = .next (s.raiseOutOfBounds (.bcd x) (max s.index.toNat 4096)) := by
  have hout : 4096 < s.base + (bcdDigits (s.reg x)).length := Nat.lt_succ_of_le h
  show execBcd x s = _
  rw [execBcd, s.mem.writeRange_error (by simp) hout]
  rfl

/-- Each digit fits a byte, so storing it as one loses nothing. -/
theorem bcdDigits_toNat (a : Byte) :
    (bcdDigits a).map BitVec.toNat = [a.toNat / 100, a.toNat / 10 % 10, a.toNat % 10] := by
  have ha := a.isLt
  simp (disch := omega) only [bcdDigits, List.map_cons, List.map_nil, BitVec.toNat_ofNat, Nat.mod_eq_of_lt]

/-- The byte that BCD's run of writes leaves at offset `k` is the `k`-th digit. -/
theorem Memory.peek_pokeMany_bcdDigits {m : Memory} (hw : m.wf = true) {base : Nat} (h : base + 2 < 4096) (a : Byte)
    {k : Nat} (hk : k < 3) :
    ((m.pokeMany base (bcdDigits a)).peek (base + k)).toNat =
      [a.toNat / 100, a.toNat / 10 % 10, a.toNat % 10][k] := by
  simp only [← bcdDigits_toNat, List.getElem_map]
  exact congrArg BitVec.toNat (Memory.peek_pokeMany hw h hk)

/-- The address reported for three bytes that do not all fit, `max(I, 4096)`, is the first of them out (R194). -/
theorem find?_outOfBounds_of_three {base : Nat} (h : base + 2 ≥ 4096) :
    [base, base + 1, base + 2].find? (fun a => decide (4096 ≤ a)) = some (max base 4096) := by
  obtain hge | rfl | rfl : 4096 ≤ base ∨ base = 4095 ∨ base = 4094 := by omega
  · rw [List.find?_cons_of_pos (by simpa using hge), Nat.max_eq_left hge]
  · rfl
  · rfl

/-- Settles O44: the three writes are checked as one range, so either all digits are stored or the record alone is. -/
theorem bcdStoresThreeDigits : Obligations.BcdStoresThreeDigits := by
  intro x s
  refine ⟨rfl, fun hw hfit => ?stored, fun hout => ?fault⟩
  case stored =>
    have hdigit {k : Nat} (hk : k < 3) := Memory.peek_pokeMany_bcdDigits hw hfit (s.reg x) hk
    refine ⟨_, exec_bcd_of_fits x hfit, rfl, hdigit (k := 0) (by decide), hdigit (k := 1) (by decide),
      hdigit (k := 2) (by decide), unchanged_pokeMany s _ fun a ha => ?_⟩
    simp only [bcdDigits_length, Bool.and_eq_false_iff, decide_eq_false_iff_not] at ha ⊢
    omega
  case fault => exact ⟨_, rfl, (find?_outOfBounds_of_three hout).symm, exec_bcd_of_out x hout⟩

end Sys2Proof.Machine

/-! Clearing the display (spec/44_display.md R210). -/

namespace Sys2Proof.Machine

theorem exec_cls (s : State) : exec .cls s = .next { s.advance with disp := Display.clear } := rfl

/-- The frame of a replaced display: the display and `pc`. -/
theorem unchanged_setDisp (s : State) (d : Display) : Unchanged { disp := true } s { s.advance with disp := d } where
  regs _ _ := rfl
  index _ := rfl
  sp _ := rfl
  stack _ _ := rfl
  dt _ := rfl
  st _ := rfl
  keys := rfl
  disp hdisp := nomatch hdisp
  mem _ _ := rfl
  fault := rfl
  draws _ := rfl

/-- Settles O48: CLS is the advance with the display replaced by the clear one, whatever the display was. -/
theorem clearScreenTurnsEveryCellOff : Obligations.ClearScreenTurnsEveryCellOff := by
  refine ⟨rfl, fun s => ?_⟩
  exact ⟨_, exec_cls s, Display.cell_clear, s.advance_pc, unchanged_setDisp s Display.clear⟩

end Sys2Proof.Machine

/-! Key skips and timers (spec/45_keys_timers.md R220 to R224). -/

namespace Sys2Proof.Machine

/-! ### Key skips (R220, R221) -/

/-- The key that `Vx` names, by its number (R220). -/
theorem keyIndex_eq_of_toNat {a : Byte} {k : KeyIx} (h : k.toNat = a.toNat % 16) : keyIndex a = k :=
  BitVec.eq_of_toNat_eq ((keyIndex_toNat a).trans h.symm)

/-- Settles O51: both are skips, whose condition is the state of the key that the low nibble names, or its negation. -/
theorem keySkipsTestTheLowNibbleKey : Obligations.KeySkipsTestTheLowNibbleKey := by
  intro x k s hk
  obtain rfl := keyIndex_eq_of_toNat hk
  refine ⟨⟨rfl, rfl⟩, exec_skip rfl, ?sknp⟩
  case sknp => simpa using exec_skip (i := .sknp x) (s := s) rfl

/-! ### No instruction reads ST (R224)

`State.setSound` commutes with every operation that an instruction is made of, and so with every instruction. -/

/-- The outcome of a step with the next state changed by `f`; a step without one stops for the same reason. -/
def StepOutcome.mapState (f : State → State) : StepOutcome → StepOutcome
  | .next s => .next (f s)
  | .fault r => .fault r
  | .refused r => .refused r

section

variable (s : State) (v : Byte)

@[simp] theorem State.setSound_advance : (s.setSound v).advance = s.advance.setSound v := rfl
@[simp] theorem State.setSound_base : (s.setSound v).base = s.base := rfl
@[simp] theorem State.setSound_pressed : (s.setSound v).pressed = s.pressed := rfl
@[simp] theorem State.setSound_regsUpTo (x : RegIx) : (s.setSound v).regsUpTo x = s.regsUpTo x := rfl

theorem State.setSound_skipIf (c : Bool) : (s.setSound v).skipIf c = (s.skipIf c).setSound v := by
  cases c <;> rfl

theorem State.setSound_push (target : Word) :
    (s.setSound v).push target = (s.push target).map (State.setSound · v) := by
  rw [State.push, State.push, apply_ite (Except.map _), apply_dite (Except.map _)]
  rfl

theorem State.setSound_pop : (s.setSound v).pop = s.pop.map (Prod.map id (State.setSound · v)) := by
  rw [State.pop, State.pop, apply_ite (Except.map _), apply_dite (Except.map _)]
  rfl

theorem State.setSound_raiseStack (i : Instr) (e : StackError) :
    (s.setSound v).raiseStack i e = (s.raiseStack i e).mapState (State.setSound · v) := by
  cases e <;> rfl

theorem State.setSound_setRegsFrom : ∀ (bytes : List Byte) (s : State) (k : Nat),
    (s.setSound v).setRegsFrom k bytes = (s.setRegsFrom k bytes).setSound v
  | [], _, _ => rfl
  | b :: bytes, s, k => State.setSound_setRegsFrom bytes (s.setReg (BitVec.ofNat 4 k) b) (k + 1)

theorem State.setSound_getKey (choose : KeyIx → List KeyIx → KeyIx) (x : RegIx) :
    (s.setSound v).getKey choose x = (s.getKey choose x).setSound v := by
  simp only [State.getKey, State.setSound_pressed]
  cases s.pressed <;> rfl

theorem execRet_setSound : execRet (s.setSound v) = (execRet s).mapState (State.setSound · v) := by
  simp only [execRet, State.setSound_advance, State.setSound_pop]
  cases s.advance.pop with
  | ok r => rfl
  | error e => exact s.setSound_raiseStack v .ret e

theorem execCall_setSound (nnn : Addr) :
    execCall nnn (s.setSound v) = (execCall nnn s).mapState (State.setSound · v) := by
  simp only [execCall, State.setSound_advance, State.setSound_pc, State.setSound_push]
  cases s.advance.push s.advance.pc with
  | ok t => rfl
  | error e => exact s.setSound_raiseStack v (.call nnn) e

theorem execDrw_setSound (x y : RegIx) (n : BitVec 4) :
    execDrw x y n (s.setSound v) = (execDrw x y n s).mapState (State.setSound · v) := by
  simp only [execDrw, State.setSound_base, State.setSound_mem]
  cases s.mem.readRange s.base n.toNat <;> rfl

theorem execAddI_setSound (x : RegIx) :
    execAddI x (s.setSound v) = (execAddI x s).mapState (State.setSound · v) := by
  simp only [execAddI, StepOutcome.mapState, apply_ite (State.setSound · v)]
  rfl

theorem execBcd_setSound (x : RegIx) :
    execBcd x (s.setSound v) = (execBcd x s).mapState (State.setSound · v) := by
  simp only [execBcd, State.setSound_base, State.setSound_mem, State.setSound_reg]
  cases s.mem.writeRange s.base (bcdDigits (s.reg x)) <;> rfl

theorem execStRegs_setSound (x : RegIx) :
    execStRegs x (s.setSound v) = (execStRegs x s).mapState (State.setSound · v) := by
  simp only [execStRegs, State.setSound_base, State.setSound_mem, State.setSound_regsUpTo]
  cases s.mem.writeRange s.base (s.regsUpTo x) <;> rfl

theorem execLdRegs_setSound (x : RegIx) :
    execLdRegs x (s.setSound v) = (execLdRegs x s).mapState (State.setSound · v) := by
  simp only [execLdRegs, State.setSound_base, State.setSound_mem, State.setSound_advance]
  cases s.mem.readRange s.base (regCount x) with
  | ok bytes => exact congrArg _ (State.setSound_setRegsFrom v bytes s.advance 0)
  | error a => rfl

end

/-- With another byte in ST every instruction but LD_ST_VX does the same, faults and stops included, and leaves that
byte there (R224). -/
theorem exec_setSound {i : Instr} (hi : i.mnemonic ≠ .ldStVx) (s : State) (v : Byte) :
    exec i (s.setSound v) = StepOutcome.mapState (State.setSound · v) (exec i s) := by
  cases i with
  | ldStVx x => exact absurd rfl hi
  | ret => exact execRet_setSound s v
  | call nnn => exact execCall_setSound s v nnn
  | seImm _ _ | sneImm _ _ | seReg _ _ | sneReg _ _ | skp _ | sknp _ =>
    exact congrArg _ (s.setSound_skipIf v _)
  | ldVxK x => exact congrArg _ (s.setSound_getKey v keyPriority x)
  | drw x y n => exact execDrw_setSound s v x y n
  | addI x => exact execAddI_setSound s v x
  | bcd x => exact execBcd_setSound s v x
  | stRegs x => exact execStRegs_setSound s v x
  | ldRegs x => exact execLdRegs_setSound s v x
  | cls | jp _ | ldImm _ _ | addImm _ _ | ldReg _ _ | orReg _ _ | andReg _ _ | xorReg _ _ | addReg _ _ | sub _ _
  | shr _ _ | subn _ _ | shl _ _ | ldI _ | jpV0 _ | rnd _ _ | ldVxDt _ | ldDtVx _ | ldF _ => rfl

/-! ### The timer instructions (R222 to R224) -/

theorem State.soundIsActive_iff (s : State) : s.soundIsActive = true ↔ s.st ≠ 0 := bne_iff_ne

/-- Settles O52: the three are one write each after the advance, and `exec_setSound` says that ST is not read. -/
theorem timerInstructionsMoveOneByte : Obligations.TimerInstructionsMoveOneByte := by
  intro x s
  refine ⟨⟨rfl, rfl, rfl⟩, exec_writesReg rfl, ?ldDtVx, ?ldStVx, fun v => rfl, fun i t v hi hexec => ?stNotRead⟩
  case ldDtVx => exact ⟨_, rfl, rfl, rfl, unchanged_setDelay s _⟩
  case ldStVx => exact ⟨_, rfl, rfl, rfl, State.soundIsActive_iff _, unchanged_setSound s _⟩
  case stNotRead =>
    have hcommutes := exec_setSound hi s v
    rwa [hexec] at hcommutes

end Sys2Proof.Machine

/-! The decoder as conditions on the fields of a word (spec/30_encoding.md R96 to R101). -/

namespace Sys2Proof

/-- What the row of a mnemonic fixes of the fields (R96, R97): the case analysis of `classify`, read from the
mnemonic. -/
def Mnemonic.Fixes (f : Fields) : Mnemonic → Prop
  | .cls => f.op = 0x0#4 ∧ f.nnn = 0x0E0#12
  | .ret => f.op = 0x0#4 ∧ f.nnn = 0x0EE#12
  | .jp => f.op = 0x1#4
  | .call => f.op = 0x2#4
  | .seImm => f.op = 0x3#4
  | .sneImm => f.op = 0x4#4
  | .seReg => f.op = 0x5#4 ∧ f.n = 0x0#4
  | .ldImm => f.op = 0x6#4
  | .addImm => f.op = 0x7#4
  | .ldReg => f.op = 0x8#4 ∧ f.n = 0x0#4
  | .orReg => f.op = 0x8#4 ∧ f.n = 0x1#4
  | .andReg => f.op = 0x8#4 ∧ f.n = 0x2#4
  | .xorReg => f.op = 0x8#4 ∧ f.n = 0x3#4
  | .addReg => f.op = 0x8#4 ∧ f.n = 0x4#4
  | .sub => f.op = 0x8#4 ∧ f.n = 0x5#4
  | .shr => f.op = 0x8#4 ∧ f.n = 0x6#4
  | .subn => f.op = 0x8#4 ∧ f.n = 0x7#4
  | .shl => f.op = 0x8#4 ∧ f.n = 0xE#4
  | .sneReg => f.op = 0x9#4 ∧ f.n = 0x0#4
  | .ldI => f.op = 0xA#4
  | .jpV0 => f.op = 0xB#4
  | .rnd => f.op = 0xC#4
  | .drw => f.op = 0xD#4
  | .skp => f.op = 0xE#4 ∧ f.nn = 0x9E#8
  | .sknp => f.op = 0xE#4 ∧ f.nn = 0xA1#8
  | .ldVxDt => f.op = 0xF#4 ∧ f.nn = 0x07#8
  | .ldVxK => f.op = 0xF#4 ∧ f.nn = 0x0A#8
  | .ldDtVx => f.op = 0xF#4 ∧ f.nn = 0x15#8
  | .ldStVx => f.op = 0xF#4 ∧ f.nn = 0x18#8
  | .addI => f.op = 0xF#4 ∧ f.nn = 0x1E#8
  | .ldF => f.op = 0xF#4 ∧ f.nn = 0x29#8
  | .bcd => f.op = 0xF#4 ∧ f.nn = 0x33#8
  | .stRegs => f.op = 0xF#4 ∧ f.nn = 0x55#8
  | .ldRegs => f.op = 0xF#4 ∧ f.nn = 0x65#8

/-- The branch of `classify` that answers a mnemonic has tested what the row fixes. -/
theorem fixes_of_classify {f : Fields} {m : Mnemonic} (h : classify f = some m) : m.Fixes f := by
  unfold classify at h
  repeat' split at h
  all_goals cases h
  all_goals simp only [Mnemonic.Fixes, *, and_self]

/-- The tests of `classify` do not overlap, so what the row fixes leads to its own branch. -/
theorem classify_of_fixes {f : Fields} {m : Mnemonic} (h : m.Fixes f) : classify f = some m := by
  obtain ⟨op, x, y, n, nn, nnn⟩ := f
  cases m with
  | jp | call | seImm | sneImm | ldImm | addImm | ldI | jpV0 | rnd | drw =>
    obtain rfl := h
    rfl
  | _ =>
    obtain ⟨rfl, rfl⟩ := h
    rfl

/-- Settles O1: the word of each format has its operands as fields, and its fixed fields select its own row. -/
theorem decodeOfEncodeIsTheInstruction : Obligations.DecodeOfEncodeIsTheInstruction := by
  intro i
  rw [decodeWord]
  cases i with
  | cls | ret => rfl
  | jp nnn | call nnn | ldI nnn | jpV0 nnn => rw [encode, fieldsOf_op_addr]; rfl
  | seImm x nn | sneImm x nn | ldImm x nn | addImm x nn | rnd x nn => rw [encode, fieldsOf_op_x_byte]; rfl
  | skp x | sknp x | ldVxDt x | ldVxK x | ldDtVx x | ldStVx x | addI x | ldF x | bcd x | stRegs x | ldRegs x =>
    rw [encode, fieldsOf_op_x_byte]; rfl
  | drw x y n => rw [encode, fieldsOf_nibbles]; rfl
  | seReg x y | ldReg x y | orReg x y | andReg x y | xorReg x y | addReg x y | sub x y | shr x y | subn x y | shl x y
  | sneReg x y => rw [encode, fieldsOf_nibbles]; rfl

/-! ### Words from their fields (R92, R94) -/

theorem op_append_nnn (w : Word) : (fieldsOf w).op ++ (fieldsOf w).nnn = w := BitVec.extractLsb'_append_extractLsb'

theorem op_append_x_nn (w : Word) : (fieldsOf w).op ++ (fieldsOf w).x ++ (fieldsOf w).nn = w := by
  have hhigh : (fieldsOf w).op ++ (fieldsOf w).x = w.extractLsb' 8 8 :=
    BitVec.extractLsb'_append_extractLsb'_eq_extractLsb' rfl
  rw [hhigh]
  exact BitVec.extractLsb'_append_extractLsb'

theorem op_append_nibbles (w : Word) :
    (fieldsOf w).op ++ (fieldsOf w).x ++ (fieldsOf w).y ++ (fieldsOf w).n = w := (word_eq_nibbles w).symm

/-- The word of a row's instruction, built from the fields of a word of that row, is the word (R96). -/
theorem encode_build_of_fixes {w : Word} {m : Mnemonic} (h : m.Fixes (fieldsOf w)) :
    encode (m.build (fieldsOf w)) = w := by
  cases m with
  | cls | ret =>
    obtain ⟨hop, hnnn⟩ := h
    rw [← op_append_nnn w, hop, hnnn]
    rfl
  | jp | call | ldI | jpV0 => exact (congrArg (· ++ _) (Eq.symm h)).trans (op_append_nnn w)
  | seImm | sneImm | ldImm | addImm | rnd => exact (congrArg (· ++ _ ++ _) (Eq.symm h)).trans (op_append_x_nn w)
  | drw => exact (congrArg (· ++ _ ++ _ ++ _) (Eq.symm h)).trans (op_append_nibbles w)
  | seReg | ldReg | orReg | andReg | xorReg | addReg | sub | shr | subn | shl | sneReg =>
    obtain ⟨hop, hn⟩ := h
    exact (congrArg₂ (· ++ _ ++ _ ++ ·) hop.symm hn.symm).trans (op_append_nibbles w)
  | skp | sknp | ldVxDt | ldVxK | ldDtVx | ldStVx | addI | ldF | bcd | stRegs | ldRegs =>
    obtain ⟨hop, hnn⟩ := h
    exact (congrArg₂ (· ++ _ ++ ·) hop.symm hnn.symm).trans (op_append_x_nn w)

theorem decodeWord_eq_some {w : Word} {i : Instr} (h : decodeWord w = some i) :
    ∃ m, classify (fieldsOf w) = some m ∧ m.build (fieldsOf w) = i := Option.map_eq_some_iff.1 h

/-- Settles O2: the decoder builds from the word's own fields, and the row fixes the rest of the word. -/
theorem encodeOfDecodeIsTheWord : Obligations.EncodeOfDecodeIsTheWord := by
  intro w i h
  obtain ⟨m, hm, rfl⟩ := decodeWord_eq_some h
  exact encode_build_of_fixes (fixes_of_classify hm)


/-! ### The opcode map (R96) -/

/-- Equal joined words have equal parts. -/
theorem append_eq_append_iff {v w : Nat} {a a' : BitVec v} {b b' : BitVec w} : a ++ b = a' ++ b' ↔ a = a' ∧ b = b' := by
  constructor
  · intro h
    have hleft := congrArg (BitVec.extractLsb' w v) h
    have hright := congrArg (BitVec.extractLsb' 0 w) h
    simp only [BitVec.extractLsb'_append_eq_left, BitVec.extractLsb'_append_eq_right] at hleft hright
    exact ⟨hleft, hright⟩
  · rintro ⟨rfl, rfl⟩
    rfl

section

variable (w : Word) (op : BitVec 4)

theorem and_F000_iff : (w &&& 0xF000#16 == op ++ 0#12) = true ↔ (fieldsOf w).op = op := by
  conv_lhs => rw [← op_append_nnn w, and_mask_a]
  rw [beq_iff_eq, BitVec.append_left_inj]

theorem and_FFFF_iff (nnn : Addr) :
    (w &&& 0xFFFF#16 == op ++ nnn) = true ↔ (fieldsOf w).op = op ∧ (fieldsOf w).nnn = nnn := by
  have hall : w &&& 0xFFFF#16 = w := BitVec.and_allOnes
  conv_lhs => rw [hall, ← op_append_nnn w]
  rw [beq_iff_eq, append_eq_append_iff]

theorem and_F00F_iff (n : BitVec 4) :
    (w &&& 0xF00F#16 == op ++ 0#4 ++ 0#4 ++ n) = true ↔ (fieldsOf w).op = op ∧ (fieldsOf w).n = n := by
  conv_lhs => rw [← op_append_nibbles w, and_mask_xy]
  rw [beq_iff_eq, append_eq_append_iff, BitVec.append_left_inj, BitVec.append_left_inj]

theorem and_F0FF_iff (nn : Byte) :
    (w &&& 0xF0FF#16 == op ++ 0#4 ++ nn) = true ↔ (fieldsOf w).op = op ∧ (fieldsOf w).nn = nn := by
  conv_lhs => rw [← op_append_x_nn w, and_mask_xf]
  rw [beq_iff_eq, append_eq_append_iff, BitVec.append_left_inj]

/-- A row of the map accepts exactly the words whose fields are as its instruction's row fixes them. -/
theorem accepts_iff_fixes : ∀ r ∈ opcodeMap, r.accepts w = true ↔ r.mnemonic.Fixes (fieldsOf w) := by
  simp only [opcodeMap, List.cons_append, List.nil_append, List.forall_mem_cons]
  have op := and_F000_iff w
  have opN := and_F00F_iff w
  have opNN := and_F0FF_iff w
  have opNNN := and_FFFF_iff w
  exact ⟨opNNN 0 0x0E0, opNNN 0 0x0EE, op 1, op 2, op 3, op 4, opN 5 0, op 6, op 7, opN 8 0, opN 8 1, opN 8 2, opN 8 3,
    opN 8 4, opN 8 5, opN 8 6, opN 8 7, opN 8 0xE, opN 9 0, op 0xA, op 0xB, op 0xC, op 0xD, opNN 0xE 0x9E,
    opNN 0xE 0xA1, opNN 0xF 0x07, opNN 0xF 0x0A, opNN 0xF 0x15, opNN 0xF 0x18, opNN 0xF 0x1E, opNN 0xF 0x29,
    opNN 0xF 0x33, opNN 0xF 0x55, opNN 0xF 0x65, nofun⟩

end

theorem mnemonic_build (f : Fields) (m : Mnemonic) : (m.build f).mnemonic = m := by cases m <;> rfl

theorem opcodeMap_mnemonic_inj : ∀ r ∈ opcodeMap, ∀ r' ∈ opcodeMap, r.mnemonic = r'.mnemonic → r = r' := by decide

theorem exists_row (m : Mnemonic) : ∃ r ∈ opcodeMap, r.mnemonic = m := by cases m <;> decide

/-- A row of the map accepts exactly the words that the decoder gives its mnemonic to. -/
theorem accepts_iff_classify {r : OpcodeRow} (hr : r ∈ opcodeMap) (w : Word) :
    r.accepts w = true ↔ classify (fieldsOf w) = some r.mnemonic :=
  (accepts_iff_fixes w r hr).trans ⟨classify_of_fixes, fixes_of_classify⟩

/-- Settles O3: the decoder's mnemonic has one row of its own, and any row that accepts the word has that mnemonic. -/
theorem decoderFollowsTheOpcodeMap : Obligations.DecoderFollowsTheOpcodeMap := by
  intro w
  cases hm : classify (fieldsOf w) with
  | none =>
    refine .inr ⟨fun r hr => ?_, by rw [decodeWord, hm, Option.map_none]⟩
    rw [Bool.eq_false_iff, ne_eq, accepts_iff_classify hr, hm]
    exact nofun
  | some m =>
    obtain ⟨r, hr, rfl⟩ := exists_row m
    refine .inl ⟨r, hr, (accepts_iff_classify hr w).2 hm, fun r' hr' hacc => ?_, ?_⟩
    · have hm' := (accepts_iff_classify hr' w).1 hacc
      exact opcodeMap_mnemonic_inj r' hr' r hr (Option.some.inj (hm'.symm.trans hm))
    · exact ⟨_, by rw [decodeWord, hm, Option.map_some], mnemonic_build _ _⟩


/-! ### The illegal words (R98) -/

theorem nibble_cases (a : BitVec 4) : a = 0 ∨ a = 1 ∨ a = 2 ∨ a = 3 ∨ a = 4 ∨ a = 5 ∨ a = 6 ∨ a = 7 ∨ a = 8 ∨ a = 9 ∨
    a = 10 ∨ a = 11 ∨ a = 12 ∨ a = 13 ∨ a = 14 ∨ a = 15 := by
  revert a
  decide

/-- The six groups of R98 on the fields. Each of the other ten values of `OP` has one row, with no further fixed
field. -/
theorem classify_eq_none_iff (f : Fields) : classify f = none ↔
    (f.op = 0x0 ∧ f.nnn ≠ 0x0E0 ∧ f.nnn ≠ 0x0EE) ∨ (f.op = 0x5 ∧ f.n ≠ 0x0) ∨
    (f.op = 0x8 ∧ f.n ∈ [0x8#4, 0x9#4, 0xA#4, 0xB#4, 0xC#4, 0xD#4, 0xF#4]) ∨ (f.op = 0x9 ∧ f.n ≠ 0x0) ∨
    (f.op = 0xE ∧ f.nn ∉ [0x9E#8, 0xA1#8]) ∨
    (f.op = 0xF ∧ f.nn ∉ [0x07#8, 0x0A#8, 0x15#8, 0x18#8, 0x1E#8, 0x29#8, 0x33#8, 0x55#8, 0x65#8]) := by
  obtain ⟨op, x, y, n, nn, nnn⟩ := f
  obtain rfl | rfl | rfl | rfl | rfl | rfl | rfl | rfl | rfl | rfl | rfl | rfl | rfl | rfl | rfl | rfl :=
    nibble_cases op
  all_goals simp [classify]
  case inl => split_ifs <;> simp [*]
  · revert n
    decide
  · split <;> simp_all
  · split <;> simp_all

/-- Settles O4: the groups on the fields, where `NNN` of the two words that `OP` = 0 has is written by its nibbles. -/
theorem illegalWordsAreThoseListed : Obligations.IllegalWordsAreThoseListed := by
  intro op x y n
  have hnnn (a b c : BitVec 4) : x ++ y ++ n = a ++ b ++ c ↔ x = a ∧ y = b ∧ n = c := by
    rw [append_eq_append_iff, append_eq_append_iff, and_assoc]
  have hcls : x ++ y ++ n = 0x0E0#12 ↔ x = 0x0 ∧ y = 0xE ∧ n = 0x0 := hnnn 0x0 0xE 0x0
  have hret : x ++ y ++ n = 0x0EE#12 ↔ x = 0x0 ∧ y = 0xE ∧ n = 0xE := hnnn 0x0 0xE 0xE
  rw [decodeWord, Option.map_eq_none_iff, fieldsOf_nibbles, classify_eq_none_iff, ← hcls, ← hret]
  rfl

/-- Settles O5: each of the twelve words, decoded. -/
theorem exampleWordsDecodeAsGiven : Obligations.ExampleWordsDecodeAsGiven := by
  unfold Obligations.ExampleWordsDecodeAsGiven
  decide

/-! ### Assembly (R101) -/

/-- The operand numbers that a format reads off the fields, in the order they are written (R94, R101). -/
def Format.numbers (f : Fields) : Format → List Nat
  | .w => []
  | .a => [f.nnn.toNat]
  | .xi => [f.x.toNat, f.nn.toNat]
  | .xy => [f.x.toNat, f.y.toNat]
  | .xyn => [f.x.toNat, f.y.toNat, f.n.toNat]
  | .xf => [f.x.toNat]

theorem asmLine_build (f : Fields) (m : Mnemonic) : (m.build f).asmLine = ⟨m, m.format.numbers f⟩ := by
  cases m <;> rfl

/-- Numbers that fit their fields are read back as they were written. -/
theorem numbers_fields {l : AsmLine} (h : l.wellFormed = true) : l.mnemonic.format.numbers l.fields = l.operands := by
  obtain ⟨m, operands⟩ := l
  unfold AsmLine.wellFormed at h
  split at h
  case h_7 => cases h
  all_goals simp_all [Format.numbers, AsmLine.fields, Nat.mod_eq_of_lt]

/-- Settles O6: the word of a well-formed line is that of the instruction built from its numbers, which decodes to that
instruction, and the instruction is written with the same numbers. -/
theorem assembledWordsDecodeToTheirLine : Obligations.AssembledWordsDecodeToTheirLine := by
  intro l
  refine ⟨fun hwf => ⟨_, l.mnemonic.build l.fields, if_pos hwf, decodeOfEncodeIsTheInstruction _, ?_⟩, fun hwf => ?_⟩
  · rw [asmLine_build, numbers_fields hwf]
  · exact if_neg (by simp [hwf])

end Sys2Proof

/-! Memories with the same bytes (spec/20_memory.md R60; log 10). -/

namespace Sys2Proof.Machine

theorem Memory.wfFrom_cons {lo k : Nat} {v : Byte} {m : Memory} : Memory.wfFrom lo ((k, v) :: m) = true ↔
    lo ≤ k ∧ k < 4096 ∧ v ≠ initialByte k ∧ m.wfFrom (k + 1) = true := by
  simp only [Memory.wfFrom, Bool.and_eq_true, decide_eq_true_eq, and_assoc]

theorem Memory.peek_cons_self (k : Nat) (v : Byte) (m : Memory) : Memory.peek ((k, v) :: m) k = v := if_pos rfl

theorem Memory.peek_cons_of_ne {a k : Nat} (h : a ≠ k) (v : Byte) (m : Memory) :
    Memory.peek ((k, v) :: m) a = m.peek a := if_neg h

/-- A canonical memory with the same bytes as one that lists `k` first lists nothing below `k + 1` but `k`. -/
theorem Memory.not_wfFrom_of_peek_cons {k : Nat} {v : Byte} {m m' : Memory} (hv : v ≠ initialByte k)
    (hpeek : Memory.peek ((k, v) :: m) k = m'.peek k) : ¬m'.wfFrom (k + 1) = true := by
  intro hw'
  rw [Memory.peek_cons_self, Memory.peek_below (Nat.lt_succ_self k) hw'] at hpeek
  exact hv hpeek

theorem Memory.eq_of_peek_eq : ∀ {m m' : Memory} {lo : Nat}, m.wfFrom lo = true → m'.wfFrom lo = true →
    (∀ a, m.peek a = m'.peek a) → m = m'
  | [], [], _, _, _, _ => rfl
  | [], (k, v) :: m', _, _, hw', hpeek => by
    obtain ⟨_, _, hv, _⟩ := Memory.wfFrom_cons.1 hw'
    exact absurd rfl (Memory.not_wfFrom_of_peek_cons hv (hpeek k).symm)
  | (k, v) :: m, [], _, hw, _, hpeek => by
    obtain ⟨_, _, hv, _⟩ := Memory.wfFrom_cons.1 hw
    exact absurd rfl (Memory.not_wfFrom_of_peek_cons hv (hpeek k))
  | (k, v) :: m, (k', v') :: m', _, hw, hw', hpeek => by
    obtain ⟨_, hk, hv, hm⟩ := Memory.wfFrom_cons.1 hw
    obtain ⟨_, hk', hv', hm'⟩ := Memory.wfFrom_cons.1 hw'
    obtain hlt | rfl | hgt := Nat.lt_trichotomy k k'
    · exact absurd (Memory.wfFrom_cons.2 ⟨hlt, hk', hv', hm'⟩) (Memory.not_wfFrom_of_peek_cons hv (hpeek k))
    · have hhead := hpeek k
      rw [Memory.peek_cons_self, Memory.peek_cons_self] at hhead
      have htail (a : Nat) : Memory.peek m a = Memory.peek m' a := by
        by_cases ha : a = k
        · rw [ha, Memory.peek_below (Nat.lt_succ_self k) hm, Memory.peek_below (Nat.lt_succ_self k) hm']
        · have htail := hpeek a
          rwa [Memory.peek_cons_of_ne ha, Memory.peek_cons_of_ne ha] at htail
      rw [hhead, Memory.eq_of_peek_eq hm hm' htail]
    · exact absurd (Memory.wfFrom_cons.2 ⟨hgt, hk, hv, hm⟩) (Memory.not_wfFrom_of_peek_cons hv' (hpeek k').symm)

/-- Settles O27: the lists are compared from their heads on; the lower of two different heads would be a byte unlike the
reset contents that the other memory does not list. -/
theorem equalBytesAreEqualMemories : Obligations.EqualBytesAreEqualMemories :=
  fun _ _ hw hw' hpeek => Memory.eq_of_peek_eq hw hw' hpeek

end Sys2Proof.Machine

/-! Arithmetic and shifts (spec/42_load_alu.md R166 to R170), the random byte (R172), add-to-index
(spec/43_index_memory.md R191) and jump-with-offset (spec/41_flow.md R147). -/

namespace Sys2Proof.Machine

/-! ### A result in `Vx` and a flag in VF (R123) -/

/-- What every instruction does that writes a byte to `Vx` and then a flag to VF, whatever the two are. -/
theorem exec_writesResultAndFlag {i : Instr} {s : State} {x : RegIx} {v : Byte} {f : Bool}
    (h : exec i s = .next (s.advance.setResultAndFlag x v f)) :
    ∃ t, exec i s = .next t ∧ t.pc = s.pc + 2 ∧ (x ≠ vF → t.reg x = v) ∧ t.reg vF = flagByte f ∧
      Unchanged { regs := fun r => r == x || r == vF } s t := by
  refine ⟨_, h, rfl, fun hx => ?_, ?_, unchanged_setResultAndFlag s x v f⟩
  · rw [State.setResultAndFlag_reg, if_neg hx, if_pos rfl]
  · rw [State.setResultAndFlag_reg, if_pos rfl]

theorem flagByte_decide (p : Prop) [Decidable p] : flagByte (decide p) = if p then 1 else 0 := by
  simp only [flagByte, decide_eq_true_eq]

/-- Settles O38: the byte is a sum of bytes, which wraps, and the flag is the carry of the exact sum. -/
theorem addWritesSumThenCarry : Obligations.AddWritesSumThenCarry := by
  intro x y s
  obtain ⟨t, hexec, hpc, hresult, hflag, hframe⟩ := exec_writesResultAndFlag (i := .addReg x y) (s := s) rfl
  refine ⟨rfl, t, hexec, hpc, fun hx => ?_, hflag.trans (flagByte_decide _), hframe⟩
  rw [hresult hx, BitVec.toNat_add]

/-- A difference of bytes as numbers. -/
theorem toNat_sub_eq_emod (a b : Byte) : ((a - b).toNat : Int) = ((a.toNat : Int) - b.toNat) % 256 := by
  bv_omega

/-- Settles O39: each byte is a difference of bytes, which wraps, and each flag compares the two operands. -/
theorem subtractionsWriteNoBorrow : Obligations.SubtractionsWriteNoBorrow := by
  intro x y s
  refine ⟨⟨rfl, rfl⟩, ?sub, ?subn⟩
  case sub =>
    obtain ⟨t, hexec, hpc, hresult, hflag, hframe⟩ := exec_writesResultAndFlag (i := .sub x y) (s := s) rfl
    exact ⟨t, hexec, hpc, fun hx => by rw [hresult hx, toNat_sub_eq_emod], hflag.trans (flagByte_decide _), hframe⟩
  case subn =>
    obtain ⟨t, hexec, hpc, hresult, hflag, hframe⟩ := exec_writesResultAndFlag (i := .subn x y) (s := s) rfl
    exact ⟨t, hexec, hpc, fun hx => by rw [hresult hx, toNat_sub_eq_emod], hflag.trans (flagByte_decide _), hframe⟩

/-- A bit of a byte, written as a flag, is that digit of the byte's number. -/
theorem flagByte_getLsbD_toNat (a : Byte) (k : Nat) : (flagByte (a.getLsbD k)).toNat = a.toNat / 2 ^ k % 2 := by
  rw [← Nat.toNat_testBit, BitVec.testBit_toNat]
  cases a.getLsbD k <;> rfl

/-- Settles O40: the shifts of a byte as numbers, and the bit that each shifts out. -/
theorem shiftsMoveVyByOneBit : Obligations.ShiftsMoveVyByOneBit := by
  intro x y s
  refine ⟨⟨rfl, rfl⟩, ?shr, ?shl⟩
  case shr =>
    obtain ⟨t, hexec, hpc, hresult, hflag, hframe⟩ := exec_writesResultAndFlag (i := .shr x y) (s := s) rfl
    refine ⟨t, hexec, hpc, fun hx => ?_, ?_, hframe⟩
    · rw [hresult hx, BitVec.toNat_ushiftRight, Nat.shiftRight_eq_div_pow, pow_one]
    · rw [hflag, lowBit, flagByte_getLsbD_toNat, pow_zero, Nat.div_one]
  case shl =>
    obtain ⟨t, hexec, hpc, hresult, hflag, hframe⟩ := exec_writesResultAndFlag (i := .shl x y) (s := s) rfl
    refine ⟨t, hexec, hpc, fun hx => ?_, ?_, hframe⟩
    · rw [hresult hx, BitVec.toNat_shiftLeft, Nat.shiftLeft_eq, pow_one, Nat.mul_comm]
    · have hbyte := (s.reg y).isLt
      rw [hflag, highBit, flagByte_getLsbD_toNat]
      omega

/-! ### The random byte (R172, R259) -/

theorem exec_rnd (x : RegIx) (nn : Byte) (s : State) :
    exec (.rnd x nn) s = .next (s.countDraw.randomize x nn (Config.randByte s.draws)) := rfl

theorem State.randomize_reg_same (s : State) (x : RegIx) (nn rand : Byte) :
    (s.randomize x nn rand).reg x = rand &&& nn :=
  State.setReg_reg_same _ x _

/-- Settles O41: both RNDs are `State.randomize`, on the next free byte or on the host's. -/
theorem randomByteIsMasked : Obligations.RandomByteIsMasked := by
  intro x nn s
  refine ⟨rfl, ⟨_, exec_rnd x nn s, rfl, State.randomize_reg_same _ x nn _, fun k hk => ?_, rfl,
    unchanged_randomize s x nn _⟩, fun p rand => ⟨_, rfl, rfl, State.randomize_reg_same _ x nn rand,
    unchanged_randomize s x nn rand⟩⟩
  rw [State.randomize_reg_same, BitVec.getLsbD_and, hk, Bool.and_false]

/-! ### Add-to-index (R191) -/

theorem exec_addI_of_overflow (x : RegIx) {s : State} (h : s.index.toNat + 8 > 0x0FFF) :
    exec (.addI x) s = .next ((s.advance.setIndex (indexPlusStep s.index)).setReg vF 1) := by
  have hover : indexOverflow s.index = true := decide_eq_true h
  show execAddI x s = _
  rw [execAddI, if_pos hover, flagByte_true]

theorem exec_addI_of_le (x : RegIx) {s : State} (h : s.index.toNat + 8 ≤ 0x0FFF) :
    exec (.addI x) s = .next (s.advance.setIndex (indexPlusStep s.index)) := by
  have hkeep : ¬indexOverflow s.index = true := fun hover => Nat.not_lt.2 h (of_decide_eq_true hover)
  show execAddI x s = _
  rw [execAddI, if_neg hkeep]

/-- add-to-index masked to 12 bits, for any `I` (R191; log 14). -/
theorem indexPlusStep_toNat_of_overflow {v : Word} (h : v.toNat + 8 > 0x0FFF) :
    (indexPlusStep v).toNat = (v.toNat + 8) % 4096 := by
  have hover : indexOverflow v = true := decide_eq_true h
  have hmask : (v.toNat + 8) &&& 0x0FFF = (v.toNat + 8) % 4096 := Nat.and_two_pow_sub_one_eq_mod _ 12
  rw [indexPlusStep, if_pos hover, BitVec.toNat_ofNat, hmask]
  omega

/-- Writing another value to VF adds VF to what is written. -/
theorem Unchanged.setFlag {w : Writes} {s t : State} (h : Unchanged w s t) (v : Byte) :
    Unchanged { w with regs := fun r => w.regs r || r == vF } s (t.setReg vF v) where
  regs r hr := by
    obtain ⟨hw, hne⟩ := Bool.or_eq_false_iff.1 hr
    rw [State.setReg_reg_other t (beq_eq_false_iff_ne.1 hne), h.regs r hw]
  index := h.index
  sp := h.sp
  stack := h.stack
  dt := h.dt
  st := h.st
  keys := h.keys
  disp := h.disp
  mem := h.mem
  fault := h.fault
  draws := h.draws

/-- Settles O43: past 0x0FFF the mask takes the sum modulo 4096 and VF is written as well; below, the sum is within 12
bits as it is. -/
theorem addToIndexAddsEight : Obligations.AddToIndexAddsEight := by
  intro x s
  refine ⟨rfl, ?_⟩
  by_cases h : s.index.toNat + 8 > 0x0FFF
  · refine ⟨_, exec_addI_of_overflow x h, rfl,
      fun _ => ⟨indexPlusStep_toNat_of_overflow h, State.setReg_reg_same _ _ _, ?_⟩, fun hle => ?_⟩
    · simpa using (unchanged_setIndex s (indexPlusStep s.index)).setFlag 1
    · omega
  · have hle := Nat.le_of_not_gt h
    refine ⟨_, exec_addI_of_le x hle, rfl, fun hgt => absurd hgt h, fun _ => ⟨?_, unchanged_setIndex s _⟩⟩
    change (indexPlusStep s.index).toNat = _
    rw [indexPlusStep_toNat (by omega), Nat.mod_eq_of_lt (by omega)]

/-! ### Jump-with-offset (R147) -/

/-- Settles O35: the sum is at most 0x10FE, so it is a `pc` as it is, and from 4095 on no word is fetched there. -/
theorem offsetJumpAddsV0 : Obligations.OffsetJumpAddsV0 := by
  intro nnn s
  have hpc : (s.jump (offsetTarget nnn (s.reg v0))).pc.toNat = nnn.toNat + (s.reg v0).toNat := offsetTarget_toNat _ _
  refine ⟨rfl, _, rfl, hpc, unchanged_jump s _, fun hout => ?_⟩
  rw [State.fetch_of_ge _ (hpc.symm ▸ hout), hpc, Nat.max_comm]

end Sys2Proof.Machine

/-! Storing and loading registers (spec/43_index_memory.md R194 to R196). -/

namespace Sys2Proof.Machine

section

variable (x : RegIx) {s : State}

theorem exec_stRegs_of_fits (h : s.index.toNat + x.toNat < 4096) :
    exec (.stRegs x) s = .next (s.advance.setMem (s.mem.pokeMany s.index.toNat (s.regsUpTo x))) := by
  have hfit : s.base + (s.regsUpTo x).length ≤ 4096 := by rwa [State.regsUpTo_length]
  show execStRegs x s = _
  rw [execStRegs, s.mem.writeRange_ok (.inr hfit)]
  rfl

theorem exec_stRegs_of_out (h : s.index.toNat + x.toNat ≥ 4096) :
    exec (.stRegs x) s = .next (s.raiseOutOfBounds (.stRegs x) (max s.index.toNat 4096)) := by
  have hout : 4096 < s.base + (s.regsUpTo x).length := by
    rw [State.regsUpTo_length]
    exact Nat.lt_succ_of_le h
  show execStRegs x s = _
  rw [execStRegs, s.mem.writeRange_error (by simp) hout]
  rfl

theorem exec_ldRegs_of_fits (h : s.index.toNat + x.toNat < 4096) :
    exec (.ldRegs x) s = .next (s.advance.setRegsFrom 0 (s.mem.peekMany s.index.toNat (regCount x))) := by
  show execLdRegs x s = _
  rw [execLdRegs, s.mem.readRange_ok (.inr h)]
  rfl

theorem exec_ldRegs_of_out (h : s.index.toNat + x.toNat ≥ 4096) :
    exec (.ldRegs x) s = .next (s.raiseOutOfBounds (.ldRegs x) (max s.index.toNat 4096)) := by
  have hcount : 1 ≤ regCount x := Nat.le_add_left 1 _
  have hout : 4096 < s.base + regCount x := Nat.lt_succ_of_le h
  show execLdRegs x s = _
  rw [execLdRegs, s.mem.readRange_error hcount hout]
  rfl

/-- The byte that a store of V0 to Vx leaves for register `k`. -/
theorem Memory.peek_pokeMany_regsUpTo {m : Memory} (hw : m.wf = true) {base : Nat} (h : base + x.toNat < 4096)
    {k : RegIx} (hk : k.toNat ≤ x.toNat) : (m.pokeMany base (s.regsUpTo x)).peek (base + k.toNat) = s.reg k := by
  have hlen : k.toNat < (s.regsUpTo x).length := by
    rw [State.regsUpTo_length]
    omega
  have hfit : base + (s.regsUpTo x).length ≤ 4096 := by rwa [State.regsUpTo_length]
  rw [Memory.peek_pokeMany hw hfit hlen, State.regsUpTo_getElem, BitVec.ofNat_toNat, BitVec.setWidth_eq]

/-- The byte that a load of V0 to Vx leaves in register `k`. -/
theorem State.setRegsFrom_peekMany_reg (t : State) (m : Memory) (base : Nat) {k : RegIx} (hk : k.toNat ≤ x.toNat) :
    (t.setRegsFrom 0 (m.peekMany base (regCount x))).reg k = m.peek (base + k.toNat) := by
  have hx := x.isLt
  have hcount : k.toNat < regCount x := Nat.lt_succ_of_le hk
  have hlen : 0 + (m.peekMany base (regCount x)).length ≤ 16 := by simpa [regCount] using hx
  rw [State.setRegsFrom_reg k _ _ 0 hlen, if_pos (Nat.zero_le _), Nat.sub_zero, List.getD_eq_getElem?_getD,
    Memory.peekMany_getElem?, if_pos hcount, Option.getD_some]

theorem unchanged_stRegs :
    Unchanged { mem := fun a => decide (s.index.toNat ≤ a) && decide (a ≤ s.index.toNat + x.toNat) } s
      (s.advance.setMem (s.mem.pokeMany s.index.toNat (s.regsUpTo x))) := by
  refine unchanged_pokeMany s _ fun a ha => ?_
  simp only [State.regsUpTo_length, Bool.and_eq_false_iff, decide_eq_false_iff_not] at ha ⊢
  omega

theorem unchanged_ldRegs : Unchanged { regs := fun r => decide (r.toNat ≤ x.toNat) } s
    (s.advance.setRegsFrom 0 (s.mem.peekMany s.index.toNat (regCount x))) :=
  unchanged_setRegsFrom s x _ (Memory.peekMany_length _ _ _)

end

/-- Settles O45: the writes are checked as one range, and each of them leaves the byte of its register. -/
theorem storeRegistersCopiesV0ToVx : Obligations.StoreRegistersCopiesV0ToVx := by
  intro x s
  refine ⟨rfl, fun hw hfit => ?_, fun hout => exec_stRegs_of_out x hout⟩
  exact ⟨_, exec_stRegs_of_fits x hfit, rfl, fun k hk => Memory.peek_pokeMany_regsUpTo x hw hfit hk, unchanged_stRegs x⟩

/-- Settles O46: the reads are checked as one range, and each register takes its byte of it. -/
theorem loadRegistersFillsV0ToVx : Obligations.LoadRegistersFillsV0ToVx := by
  intro x s
  refine ⟨rfl, fun hfit => ?_, fun hout => exec_ldRegs_of_out x hout⟩
  refine ⟨_, exec_ldRegs_of_fits x hfit, ?_, fun k hk => State.setRegsFrom_peekMany_reg x _ _ _ hk, unchanged_ldRegs x⟩
  rw [State.setRegsFrom_frame, State.advance_pc]

/-- Settles O47: the load reads at the addresses that the store wrote, which still hold what it wrote there. -/
theorem loadUndoesStore : Obligations.LoadUndoesStore := by
  intro x s t u hw hfit hstore hmem hindex
  rw [exec_stRegs_of_fits x hfit] at hstore
  cases hstore
  simp only [State.setMem_mem, State.setMem_index, State.advance_index] at hmem hindex
  refine ⟨_, exec_ldRegs_of_fits x (hindex ▸ hfit), fun k hk => ?_⟩
  rw [State.setRegsFrom_peekMany_reg x _ _ _ hk, hmem, hindex]
  exact Memory.peek_pokeMany_regsUpTo x hw hfit hk

/-- Settles O14: the two stored bytes are the two that a fetch between them reads. -/
theorem storedRegistersAreFetched : Obligations.StoredRegistersAreFetched := by
  intro x k k' p s t hw hfit hnext hle hp hexec
  have hfit' := Nat.lt_succ_of_le hfit
  rw [exec_stRegs_of_fits x hfit'] at hexec
  cases hexec
  have hlow : p.toNat + 1 = s.index.toNat + k'.toNat := by omega
  rw [State.fetch_of_le _ (show p.toNat ≤ 4094 by omega)]
  simp only [State.jump_mem, State.jump_pc, State.setMem_mem]
  rw [hlow, hp, Memory.peek_pokeMany_regsUpTo x hw hfit' (by omega), Memory.peek_pokeMany_regsUpTo x hw hfit' hle]

end Sys2Proof.Machine

/-! Drawing (spec/44_display.md R211, R212) and get-key (spec/45_keys_timers.md R225). -/

namespace Sys2Proof.Machine

/-! ### One draw, cell by cell (R211) -/

/-- The canvas after a draw of the `n` sprite rows at `I` at `(vx, vy)`. -/
def State.draw (s : State) (vx vy n : Nat) : Canvas :=
  Canvas.drawRows vx vy (s.mem.peekMany s.index.toNat n) ⟨s.disp, false⟩

theorem spriteHits_peekMany_iff (s : State) (vx vy n : Nat) (xx : Fin 64) (yy : Fin 32) :
    spriteHits vx vy (s.mem.peekMany s.index.toNat n) xx yy ↔ s.spriteCovers vx vy n xx yy := by
  have hrow {j : Nat} (h : j < (s.mem.peekMany s.index.toNat n).length) :
      (s.mem.peekMany s.index.toNat n)[j] = s.mem.peek (s.index.toNat + j) := by
    rw [Memory.peekMany_length] at h
    simpa [h] using Memory.peekMany_getElem? s.mem n s.index.toNat j
  constructor
  · rintro ⟨j, hj, i, hi, hbit, hcol, hrow'⟩
    rw [hrow hj] at hbit
    rw [Memory.peekMany_length] at hj
    exact ⟨j, i, hj, hi, hbit, (wrapCol_eq_iff _ _).1 hcol, (wrapRow_eq_iff _ _).1 hrow'⟩
  · rintro ⟨j, i, hj, hi, hbit, hcol, hrow'⟩
    have hj' : j < (s.mem.peekMany s.index.toNat n).length := by rwa [Memory.peekMany_length]
    exact ⟨j, hj', i, hi, by rwa [hrow hj'], (wrapCol_eq_iff _ _).2 hcol, (wrapRow_eq_iff _ _).2 hrow'⟩

section

variable (s : State) (vx vy : Nat) {n : Nat}

theorem State.draw_cell_of_covers (hn : n ≤ 32) {xx : Fin 64} {yy : Fin 32} (h : s.spriteCovers vx vy n xx yy) :
    (s.draw vx vy n).disp.cell xx yy = !Display.cell s.disp xx yy := by
  rw [State.draw, Canvas.drawRows_cell _ _ _ _ _ _ (by rwa [Memory.peekMany_length]),
    if_pos ((spriteHits_peekMany_iff ..).2 h)]

theorem State.draw_cell_of_not_covers (hn : n ≤ 32) {xx : Fin 64} {yy : Fin 32}
    (h : ¬s.spriteCovers vx vy n xx yy) : (s.draw vx vy n).disp.cell xx yy = Display.cell s.disp xx yy := by
  rw [State.draw, Canvas.drawRows_cell _ _ _ _ _ _ (by rwa [Memory.peekMany_length]),
    if_neg (mt (spriteHits_peekMany_iff ..).1 h)]

theorem State.draw_collision_iff (hn : n ≤ 32) :
    (s.draw vx vy n).collision = true ↔ ∃ xx yy, s.spriteCovers vx vy n xx yy ∧ Display.cell s.disp xx yy = true := by
  rw [State.draw, Canvas.drawRows_collision _ _ _ _ (by rwa [Memory.peekMany_length])]
  simp [spriteHits_peekMany_iff]

end

/-! ### DRW -/

theorem exec_drw_of_fits (x y : RegIx) (n : BitVec 4) {s : State}
    (h : n.toNat = 0 ∨ s.index.toNat + n.toNat - 1 < 4096) :
    exec (.drw x y n) s = .next (s.advance.setCanvas (s.draw (s.reg x).toNat (s.reg y).toNat n.toNat)) := by
  have hfit : n.toNat = 0 ∨ s.base + n.toNat ≤ 4096 := h.imp_right fun h => by
    change s.index.toNat + n.toNat ≤ 4096
    omega
  show execDrw x y n s = _
  rw [execDrw, s.mem.readRange_ok hfit]
  rfl

theorem exec_drw_of_out (x y : RegIx) (n : BitVec 4) {s : State} (h1 : n.toNat ≥ 1)
    (h2 : s.index.toNat + n.toNat - 1 ≥ 4096) :
    exec (.drw x y n) s = .next (s.raiseOutOfBounds (.drw x y n) (max s.index.toNat 4096)) := by
  have hout : 4096 < s.base + n.toNat := by
    change 4096 < s.index.toNat + n.toNat
    omega
  show execDrw x y n s = _
  rw [execDrw, s.mem.readRange_error h1 hout]
  rfl

/-- A sprite has no more rows than the display. -/
theorem nibble_toNat_le (n : BitVec 4) : n.toNat ≤ 32 := n.isLt.le.trans (by decide)

@[simp] theorem State.setCanvas_reg_flag (s : State) (c : Canvas) : (s.setCanvas c).reg vF = flagByte c.collision := by
  rw [State.setCanvas_reg, if_pos rfl]

/-- Settles O49: the loops of a draw toggle each covered cell once and gather the collision. -/
theorem drawTogglesTheCoveredCells : Obligations.DrawTogglesTheCoveredCells := by
  intro x y n s
  have hn := nibble_toNat_le n
  refine ⟨rfl, fun hfit => ?_, fun h1 h2 => exec_drw_of_out x y n h1 h2⟩
  refine ⟨_, exec_drw_of_fits x y n hfit, rfl, fun xx yy => s.draw_cell_of_covers _ _ hn,
    fun xx yy => s.draw_cell_of_not_covers _ _ hn, fun hon => ?_, fun hoff => ?_, unchanged_setCanvas s _⟩
  · rw [State.setCanvas_reg_flag, (s.draw_collision_iff _ _ hn).2 hon, flagByte_true]
  · have hnone : ¬(s.draw (s.reg x).toNat (s.reg y).toNat n.toNat).collision = true := by
      rw [s.draw_collision_iff _ _ hn]
      rintro ⟨xx, yy, hcov, hon⟩
      exact Bool.false_ne_true ((hoff xx yy hcov).symm.trans hon)
    rw [State.setCanvas_reg_flag, Bool.eq_false_iff.2 hnone, flagByte_false]

/-! ### Two draws (R212) -/

theorem Display.ext_cell {d d' : Display} (h : ∀ xx yy, d.cell xx yy = d'.cell xx yy) : d = d' :=
  Vector.ext fun yy hy => Vector.ext fun xx hx => h ⟨xx, hx⟩ ⟨yy, hy⟩

/-- What a sprite covers depends on the memory and on `I` only. -/
theorem State.spriteCovers_congr {s t : State} (hmem : t.mem = s.mem) (hindex : t.index = s.index) (vx vy n : Nat)
    (xx : Fin 64) (yy : Fin 32) : t.spriteCovers vx vy n xx yy ↔ s.spriteCovers vx vy n xx yy := by
  simp only [State.spriteCovers, hmem, hindex]

section

variable {s t : State} {vx vy n : Nat}

/-- A draw over its own result gives the display back: each covered cell is toggled twice. -/
theorem State.draw_again_disp (hn : n ≤ 32) (hmem : t.mem = s.mem) (hindex : t.index = s.index)
    (hdisp : t.disp = (s.draw vx vy n).disp) : (t.draw vx vy n).disp = s.disp := by
  refine Display.ext_cell fun xx yy => ?_
  have hcov := State.spriteCovers_congr hmem hindex vx vy n xx yy
  by_cases h : s.spriteCovers vx vy n xx yy
  · rw [t.draw_cell_of_covers _ _ hn (hcov.2 h), hdisp, s.draw_cell_of_covers _ _ hn h, Bool.not_not]
  · rw [t.draw_cell_of_not_covers _ _ hn (mt hcov.1 h), hdisp, s.draw_cell_of_not_covers _ _ hn h]

/-- The collision of a draw over its own result: a covered cell that was off is on by then. -/
theorem State.draw_again_collision_iff (hn : n ≤ 32) (hmem : t.mem = s.mem) (hindex : t.index = s.index)
    (hdisp : t.disp = (s.draw vx vy n).disp) :
    (t.draw vx vy n).collision = true ↔ ∃ xx yy, s.spriteCovers vx vy n xx yy ∧ Display.cell s.disp xx yy = false := by
  rw [t.draw_collision_iff _ _ hn]
  refine exists₂_congr fun xx yy => ?_
  rw [State.spriteCovers_congr hmem hindex]
  refine and_congr_right fun h => ?_
  rw [hdisp, s.draw_cell_of_covers _ _ hn h, Bool.not_eq_true']

end

theorem flagByte_eq_one_iff (b : Bool) : flagByte b = 1 ↔ b = true := by
  cases b <;> decide

theorem execAll_cons_of_next {i : Instr} {is : List Instr} {s t : State} (h : exec i s = .next t) :
    execAll (i :: is) s = execAll is t := by
  simp only [execAll, h]

/-- Settles O50: with `X` and `Y` kept the second draw is one over the result of the first. -/
theorem drawingTwiceRestoresTheDisplay : Obligations.DrawingTwiceRestoresTheDisplay := by
  intro x y n s hx hy hfit
  have hn := nibble_toNat_le n
  have hfirst := exec_drw_of_fits x y n hfit
  obtain ⟨t, ht⟩ : ∃ t, t = s.advance.setCanvas (s.draw (s.reg x).toNat (s.reg y).toNat n.toNat) := ⟨_, rfl⟩
  have hmem : t.mem = s.mem := by rw [ht]; rfl
  have hindex : t.index = s.index := by rw [ht]; rfl
  have hdisp : t.disp = (s.draw (s.reg x).toNat (s.reg y).toNat n.toNat).disp := by rw [ht]; rfl
  have hregx : t.reg x = s.reg x := by rw [ht, State.setCanvas_reg, if_neg hx, State.advance_reg]
  have hregy : t.reg y = s.reg y := by rw [ht, State.setCanvas_reg, if_neg hy, State.advance_reg]
  have hsecond := exec_drw_of_fits x y n (s := t) (hindex ▸ hfit)
  rw [hregx, hregy] at hsecond
  rw [← ht] at hfirst
  refine ⟨_, (execAll_cons_of_next hfirst).trans (execAll_cons_of_next hsecond), ?_, ?_⟩
  · exact State.draw_again_disp hn hmem hindex hdisp
  · rw [State.setCanvas_reg_flag, flagByte_eq_one_iff, State.draw_again_collision_iff hn hmem hindex hdisp]

/-! ### Get-key (R225) -/

/-- With a key down LD_VX_K stores the number of the key that KEY_PRIORITY chooses, which is a pressed one. -/
theorem execWith_ldVxK_of_pressed (p : Params) (rand : Byte) (x : RegIx) {s : State} {least : KeyIx} {more : List KeyIx}
    (h : s.pressed = least :: more) :
    ∃ t, execWith p rand (.ldVxK x) s = .next t ∧ t.pc = s.pc + 2 ∧
      (t.reg x).toNat = (p.keyPriority least more).toNat ∧ s.key (p.keyPriority least more) = true ∧
      Unchanged { regs := fun r => r == x } s t := by
  obtain ⟨hup, _⟩ | ⟨least', more', hpressed, hkey, hget⟩ := s.getKey_cases p x
  · have hdown := (s.mem_pressed least).1 (h ▸ List.mem_cons_self)
    exact absurd hdown (by simp [hup])
  · cases h.symm.trans hpressed
    refine ⟨_, congrArg Host.Outcome.next hget, rfl, ?_, hkey, unchanged_setReg s x _⟩
    rw [State.setReg_reg_same, BitVec.toNat_setWidth_of_le (by decide)]

theorem execWith_ldVxK_of_none (p : Params) (rand : Byte) (x : RegIx) {s : State} (h : ∀ k, s.key k = false) :
    execWith p rand (.ldVxK x) s = .next s := by
  obtain ⟨_, hget⟩ | ⟨least, more, _, hkey, _⟩ := s.getKey_cases p x
  · exact congrArg Host.Outcome.next hget
  · exact absurd hkey (by simp [h])

/-- Settles O53: the default is one KEY_PRIORITY of all, and the first of the pressed keys in rising order is the
lowest. -/
theorem getKeyWaitsThenStoresAPressedKey : Obligations.GetKeyWaitsThenStoresAPressedKey := by
  intro x s
  refine ⟨rfl, fun hup => ?_, fun ⟨k, hk⟩ => ?_, s.mem_pressed, s.pressed_sorted, fun p rand =>
    ⟨execWith_ldVxK_of_none p rand x, fun least more h => execWith_ldVxK_of_pressed p rand x h⟩⟩
  · rw [← execWith_default]
    exact execWith_ldVxK_of_none _ _ x hup
  · obtain ⟨least, more, hpressed⟩ := List.exists_cons_of_ne_nil (List.ne_nil_of_mem ((s.mem_pressed k).2 hk))
    obtain ⟨t, hexec, hpc, hreg, hdown, hframe⟩ :=
      execWith_ldVxK_of_pressed Params.default (Config.randByte s.draws) x hpressed
    rw [execWith_default] at hexec
    refine ⟨t, least, hexec, hpc, hdown, hreg, fun j hj => ?_, hframe⟩
    have hsorted := s.pressed_sorted
    rw [hpressed] at hsorted
    obtain rfl | hmore := List.mem_cons.1 (hpressed ▸ (s.mem_pressed j).2 hj)
    · exact le_rfl
    · exact (BitVec.lt_def.1 (List.rel_of_pairwise_cons hsorted hmore)).le

end Sys2Proof.Machine

/-! Every instruction as its fault, its stop, or its effect: what `exec` can answer, said once (spec/60_exceptions.md
R249). The rules of the whole machine are read off this and off the effects. -/

namespace Sys2Proof

open Machine

/-- The state an instruction leaves where it neither faults nor stops. -/
def Instr.effect (i : Instr) (s : State) : State :=
  match i with
  | .cls => { s.advance with disp := Display.clear }
  | .ret => { s with sp := s.sp - 1, pc := s.stack[s.sp.toNat - 1]?.getD 0 }
  | .jp nnn => s.jump (zext16 nnn)
  | .call nnn => { s with stack := s.stack.setIfInBounds s.sp.toNat (s.pc + 2), sp := s.sp + 1, pc := zext16 nnn }
  | .seImm x nn => s.skipIf (s.reg x == nn)
  | .sneImm x nn => s.skipIf (s.reg x != nn)
  | .seReg x y => s.skipIf (s.reg x == s.reg y)
  | .ldImm x nn => s.advance.setReg x nn
  | .addImm x nn => s.advance.setReg x (s.reg x + nn)
  | .ldReg x y => s.advance.setReg x (s.reg y)
  | .orReg x y => s.advance.setReg x (s.reg x ||| s.reg y)
  | .andReg x y => s.advance.setReg x (s.reg x &&& s.reg y)
  | .xorReg x y => s.advance.setReg x (s.reg x ^^^ s.reg y)
  | .addReg x y => s.advance.setResultAndFlag x (s.reg x + s.reg y) (carry (s.reg x) (s.reg y))
  | .sub x y => s.advance.setResultAndFlag x (s.reg x - s.reg y) (noBorrow (s.reg x) (s.reg y))
  | .shr x y => s.advance.setResultAndFlag x (s.reg y >>> 1) (lowBit (s.reg y))
  | .subn x y => s.advance.setResultAndFlag x (s.reg y - s.reg x) (noBorrow (s.reg y) (s.reg x))
  | .shl x y => s.advance.setResultAndFlag x (s.reg y <<< 1) (highBit (s.reg y))
  | .sneReg x y => s.skipIf (s.reg x != s.reg y)
  | .ldI nnn => s.advance.setIndex (zext16 nnn)
  | .jpV0 nnn => s.jump (offsetTarget nnn (s.reg v0))
  | .rnd x nn => s.countDraw.randomize x nn (Config.randByte s.draws)
  | .drw x y n => s.advance.setCanvas (s.draw (s.reg x).toNat (s.reg y).toNat n.toNat)
  | .skp x => s.skipIf (s.key (keyIndex (s.reg x)))
  | .sknp x => s.skipIf (!s.key (keyIndex (s.reg x)))
  | .ldVxDt x => s.advance.setReg x s.dt
  | .ldVxK x => s.getKey keyPriority x
  | .ldDtVx x => s.advance.setDelay (s.reg x)
  | .ldStVx x => s.advance.setSound (s.reg x)
  | .addI _ =>
    if indexOverflow s.index then (s.advance.setIndex (indexPlusStep s.index)).setReg vF 1
    else s.advance.setIndex (indexPlusStep s.index)
  | .ldF x => s.advance.setIndex (glyphAddress (s.reg x))
  | .bcd x => s.advance.setMem (s.mem.pokeMany s.index.toNat (bcdDigits (s.reg x)))
  | .stRegs x => s.advance.setMem (s.mem.pokeMany s.index.toNat (s.regsUpTo x))
  | .ldRegs x => s.advance.setRegsFrom 0 (s.mem.peekMany s.index.toNat (regCount x))

/-- The address in the record of an instruction's own fault: only accesses to memory have one (R194, R241). -/
def Instr.faultAddr (i : Instr) (s : State) : Option Nat :=
  match i with
  | .drw _ _ _ | .bcd _ | .stRegs _ | .ldRegs _ => some (max s.index.toNat 4096)
  | _ => none

/-- The stop of the model: a stack instruction with no cell to use (R28; log 6). -/
def Instr.LacksCell (i : Instr) (s : State) : Prop := i.mnemonic ∈ [Mnemonic.call, .ret] ∧ 16 < s.sp.toNat

end Sys2Proof

namespace Sys2Proof.Machine

/-! ### The three outcomes -/

theorem State.push_of_absent (s : State) (v : Word) (h : 16 < s.sp.toNat) : s.push v = .error .noCell := by
  obtain ⟨_, _⟩ | ⟨_, _⟩ | ⟨_, herr⟩ := s.push_cases v
  · omega
  · omega
  · exact herr

theorem State.pop_of_absent (s : State) (h : 16 < s.sp.toNat) : s.pop = .error .noCell := by
  obtain ⟨_, _⟩ | ⟨_, _, _⟩ | ⟨_, herr⟩ := s.pop_cases
  · omega
  · omega
  · exact herr

theorem exec_call_of_absent (nnn : Addr) {s : State} (h : 16 < s.sp.toNat) :
    exec (.call nnn) s = .fault (.stackCellAbsent s.sp) := by
  change execCall nnn s = _
  rw [execCall, s.advance.push_of_absent _ h]
  rfl

theorem exec_ret_of_absent {s : State} (h : 16 < s.sp.toNat) : exec .ret s = .fault (.stackCellAbsent s.sp) := by
  change execRet s = _
  rw [execRet, s.advance.pop_of_absent h]
  rfl

/-- Settles O33: above 16 there is no cell to push to or to pop from. -/
theorem absentStackCellsStop : Obligations.AbsentStackCellsStop :=
  fun nnn _ h => ⟨exec_call_of_absent nnn h, exec_ret_of_absent h⟩

theorem exec_of_lacksCell {i : Instr} {s : State} (h : i.LacksCell s) : exec i s = .fault (.stackCellAbsent s.sp) := by
  obtain ⟨hi, hsp⟩ := h
  cases i with
  | call nnn => exact exec_call_of_absent nnn hsp
  | ret => exact exec_ret_of_absent hsp
  | _ => simp [Instr.mnemonic] at hi

theorem set_eq_setIfInBounds {α : Type} {n k : Nat} (xs : Vector α n) (v : α) (h : k < n) :
    xs.set k v h = xs.setIfInBounds k v :=
  Vector.ext fun j hj => by rw [Vector.getElem_set, Vector.getElem_setIfInBounds]

theorem not_of_ite_none {p : Prop} [Decidable p] {α : Type} {a : α} (h : (if p then some a else none) = none) : ¬p :=
  fun hp => Option.some_ne_none a ((if_pos hp).symm.trans h)

/-- The handler's faults: the record with the instruction's word, and nothing else (R246). -/
theorem exec_of_faultCause {i : Instr} {s : State} {c : Cause} (h : i.faultCause s = some c) :
    exec i s = .next (s.raise c (some (encode i)) (i.faultAddr s)) := by
  cases i with
  | ret =>
    obtain ⟨hsp, ⟨⟩⟩ := Option.ite_none_right_eq_some.1 h
    exact exec_ret_of_empty hsp
  | call nnn =>
    obtain ⟨hsp, ⟨⟩⟩ := Option.ite_none_right_eq_some.1 h
    exact exec_call_of_full nnn hsp
  | drw x y n =>
    obtain ⟨⟨hn, hout⟩, ⟨⟩⟩ := Option.ite_none_right_eq_some.1 h
    exact exec_drw_of_out x y n hn hout
  | bcd x =>
    obtain ⟨hout, ⟨⟩⟩ := Option.ite_none_right_eq_some.1 h
    exact exec_bcd_of_out x hout
  | stRegs x =>
    obtain ⟨hout, ⟨⟩⟩ := Option.ite_none_right_eq_some.1 h
    exact exec_stRegs_of_out x hout
  | ldRegs x =>
    obtain ⟨hout, ⟨⟩⟩ := Option.ite_none_right_eq_some.1 h
    exact exec_ldRegs_of_out x hout
  | _ => cases h

theorem exec_of_completes {i : Instr} {s : State} (hf : i.faultCause s = none) (hc : ¬i.LacksCell s) :
    exec i s = .next (i.effect s) := by
  cases i with
  | ret =>
    have hpos := not_of_ite_none hf
    have hle : s.sp.toNat ≤ 16 := by simpa [Instr.LacksCell, Instr.mnemonic] using hc
    rw [exec_ret_of_pos (by omega) hle, Instr.effect, Vector.getElem?_eq_getElem (by omega)]
    rfl
  | call nnn =>
    have hne := not_of_ite_none hf
    have hle : s.sp.toNat ≤ 16 := by simpa [Instr.LacksCell, Instr.mnemonic] using hc
    rw [exec_call_of_lt nnn (by omega), set_eq_setIfInBounds]
    rfl
  | drw x y n =>
    have hfit := not_of_ite_none hf
    exact exec_drw_of_fits x y n (by omega)
  | bcd x => exact exec_bcd_of_fits x (Nat.lt_of_not_ge (not_of_ite_none hf))
  | stRegs x => exact exec_stRegs_of_fits x (Nat.lt_of_not_ge (not_of_ite_none hf))
  | ldRegs x => exact exec_ldRegs_of_fits x (Nat.lt_of_not_ge (not_of_ite_none hf))
  | _ => rfl

/-- Everything an instruction can answer. -/
theorem exec_cases (i : Instr) (s : State) :
    (i.faultCause s = none ∧ ¬i.LacksCell s ∧ exec i s = .next (i.effect s)) ∨
    (∃ c, i.faultCause s = some c ∧ exec i s = .next (s.raise c (some (encode i)) (i.faultAddr s))) ∨
    (i.LacksCell s ∧ exec i s = .fault (.stackCellAbsent s.sp)) := by
  by_cases hc : i.LacksCell s
  · exact .inr (.inr ⟨hc, exec_of_lacksCell hc⟩)
  · cases hf : i.faultCause s with
    | none => exact .inl ⟨rfl, hc, exec_of_completes hf hc⟩
    | some c => exact .inr (.inl ⟨c, rfl, exec_of_faultCause hf⟩)

/-! ### The frame (R20, R23) -/

theorem unchanged_call (s : State) (nnn : Addr) :
    Unchanged { sp := true, stack := fun k => k.val == s.sp.toNat } s (Instr.effect (.call nnn) s) where
  regs _ _ := rfl
  index _ := rfl
  sp hsp := nomatch hsp
  stack k hk := Vector.getElem_setIfInBounds_ne k.isLt (beq_eq_false_iff_ne.1 hk).symm
  dt _ := rfl
  st _ := rfl
  keys := rfl
  disp _ := rfl
  mem _ _ := rfl
  fault := rfl
  draws _ := rfl

theorem unchanged_bcd (s : State) (x : RegIx) :
    Unchanged { mem := fun a => decide (s.index.toNat ≤ a) && decide (a < s.index.toNat + 3) } s
      (Instr.effect (.bcd x) s) := by
  refine unchanged_pokeMany s _ fun a ha => ?_
  simp only [bcdDigits_length, Bool.and_eq_false_iff, decide_eq_false_iff_not] at ha ⊢
  omega

theorem unchanged_addI (s : State) (x : RegIx) : Unchanged (Instr.writes (.addI x) s) s (Instr.effect (.addI x) s) := by
  have hindex := unchanged_setIndex s (indexPlusStep s.index)
  by_cases hover : indexOverflow s.index = true
  · have hgt : s.index.toNat + 8 > 0x0FFF := of_decide_eq_true hover
    rw [Instr.effect, if_pos hover]
    simpa [Instr.writes, hgt] using hindex.setFlag 1
  · have hle : ¬s.index.toNat + 8 > 0x0FFF := fun hgt => hover (decide_eq_true hgt)
    rw [Instr.effect, if_neg hover]
    simpa [Instr.writes, hle] using hindex

theorem keys_contains_of_key {s : State} {k : KeyIx} (h : s.key k = true) : s.keys.contains true = true := by
  rw [Vector.contains_iff_mem]
  exact h ▸ Vector.getElem_mem _

theorem unchanged_ldVxK (s : State) (x : RegIx) :
    Unchanged (Instr.writes (.ldVxK x) s) s (Instr.effect (.ldVxK x) s) := by
  obtain ⟨_, hget⟩ | ⟨least, more, _, hkey, hget⟩ := s.getKey_cases Params.default x
  · have heffect : Instr.effect (.ldVxK x) s = s := hget
    rw [heffect]
    exact Unchanged.refl s _
  · have heffect : Instr.effect (.ldVxK x) s = s.advance.setReg x _ := hget
    simpa only [heffect, Instr.writes, keys_contains_of_key hkey, Bool.and_true] using unchanged_setReg s x _

/-- The frame of every effect: `pc` and what the rule of the instruction lists. -/
theorem unchanged_effect (i : Instr) (s : State) : Unchanged (i.writes s) s (i.effect s) := by
  cases i with
  | cls => exact unchanged_setDisp s _
  | ret => exact unchanged_pop_jump s _
  | call nnn => exact unchanged_call s nnn
  | jp _ | jpV0 _ => exact unchanged_jump s _
  | seImm _ _ | sneImm _ _ | seReg _ _ | sneReg _ _ | skp _ | sknp _ => exact unchanged_skipIf s _
  | ldImm x _ | addImm x _ | ldReg x _ | orReg x _ | andReg x _ | xorReg x _ | ldVxDt x => exact unchanged_setReg s x _
  | addReg x _ | sub x _ | shr x _ | subn x _ | shl x _ => exact unchanged_setResultAndFlag s x _ _
  | ldI _ | ldF _ => exact unchanged_setIndex s _
  | rnd x nn => exact unchanged_randomize s x nn _
  | drw _ _ _ => exact unchanged_setCanvas s _
  | ldVxK x => exact unchanged_ldVxK s x
  | ldDtVx _ => exact unchanged_setDelay s _
  | ldStVx _ => exact unchanged_setSound s _
  | addI x => exact unchanged_addI s x
  | bcd x => exact unchanged_bcd s x
  | stRegs x => exact unchanged_stRegs x
  | ldRegs x => exact unchanged_ldRegs x

/-- Every next state of an instruction: its effect, or the state with a record. -/
theorem exec_next_cases {i : Instr} {s t : State} (h : exec i s = .next t) :
    t = i.effect s ∨ ∃ c w a, t = s.raise c w a := by
  obtain ⟨_, _, hexec⟩ | ⟨c, _, hexec⟩ | ⟨_, hexec⟩ := exec_cases i s
  · cases hexec.symm.trans h
    exact .inl rfl
  · cases hexec.symm.trans h
    exact .inr ⟨c, _, _, rfl⟩
  · cases hexec.symm.trans h

/-- Settles O15: an effect keeps the fault and has the frame of the instruction; a record changes the fault alone. -/
theorem instructionsWriteOnlyWhatTheyList : Obligations.InstructionsWriteOnlyWhatTheyList := by
  intro i s t hexec
  obtain rfl | ⟨c, w, a, rfl⟩ := exec_next_cases hexec
  · have hframe := unchanged_effect i s
    exact ⟨fun _ => hframe, fun hne => absurd hframe.fault hne⟩
  · refine ⟨fun heq => ?_, fun _ => rfl⟩
    have hsame : s.raise c w a = s := congrArg (fun f => { s with fault := f }) heq
    rw [hsame]
    exact Unchanged.refl s _

/-! ### Who writes what (R20, R23, R72) -/

theorem State.setRegsFrom_mem (s : State) (k : Nat) (bytes : List Byte) : (s.setRegsFrom k bytes).mem = s.mem := by
  rw [State.setRegsFrom_frame]

/-- Only BCD and ST_REGS leave other memory, as data and not only byte by byte. -/
theorem effect_mem {i : Instr} (s : State) (h : i.mnemonic ∉ [Mnemonic.bcd, .stRegs]) : (i.effect s).mem = s.mem := by
  cases i with
  | bcd _ | stRegs _ => simp [Instr.mnemonic] at h
  | seImm _ _ | sneImm _ _ | seReg _ _ | sneReg _ _ | skp _ | sknp _ =>
    rw [Instr.effect, State.skipIf_eq, State.jump_mem]
  | ldVxK x => exact s.getKey_mem _ x
  | addI x =>
    rw [Instr.effect]
    split <;> rfl
  | ldRegs x => exact State.setRegsFrom_mem _ _ _
  | _ => rfl

section

variable {i : Instr} {s : State}

theorem mnemonic_of_writes_disp (h : (i.writes s).disp = true) : i.mnemonic ∈ [Mnemonic.cls, .drw] := by
  cases i with
  | cls | drw _ _ _ => simp [Instr.mnemonic]
  | _ => cases h

theorem mnemonic_of_writes_stack {k : Fin 16} (h : (i.writes s).stack k = true) : i.mnemonic = .call := by
  cases i with
  | call _ => rfl
  | _ => cases h

theorem mnemonic_of_writes_sp (h : (i.writes s).sp = true) : i.mnemonic ∈ [Mnemonic.call, .ret] := by
  cases i with
  | call _ | ret => simp [Instr.mnemonic]
  | _ => cases h

theorem mnemonic_of_writes_dt (h : (i.writes s).dt = true) : i.mnemonic = .ldDtVx := by
  cases i with
  | ldDtVx _ => rfl
  | _ => cases h

theorem mnemonic_of_writes_st (h : (i.writes s).st = true) : i.mnemonic = .ldStVx := by
  cases i with
  | ldStVx _ => rfl
  | _ => cases h

theorem mnemonic_of_writes_index (h : (i.writes s).index = true) : i.mnemonic ∈ [Mnemonic.ldI, .addI, .ldF] := by
  cases i with
  | ldI _ | addI _ | ldF _ => simp [Instr.mnemonic]
  | _ => cases h

theorem isRnd_of_writes_draws (h : (i.writes s).draws = true) : i.isRnd = true := by
  cases i with
  | rnd _ _ => rfl
  | _ => cases h

end

theorem Unchanged.stack_eq {w : Writes} {s t : State} (h : Unchanged w s t) (hw : ∀ k, w.stack k = false) :
    t.stack = s.stack :=
  Vector.ext fun k hk => h.stack ⟨k, hk⟩ (hw ⟨k, hk⟩)

/-- Settles O16: what changed is listed by the instruction, and the lists name each field for its own writers. -/
theorem eachStateHasItsOwnWriters : Obligations.EachStateHasItsOwnWriters := by
  intro i s t hexec
  obtain rfl | ⟨c, w, a, rfl⟩ := exec_next_cases hexec
  · have hframe := unchanged_effect i s
    refine ⟨hframe.keys, fun h => mnemonic_of_writes_disp (eq_true_of_ne_false (mt hframe.disp h)),
      fun h => not_imp_comm.1 (effect_mem s) h, fun h => ?stack,
      fun h => mnemonic_of_writes_sp (eq_true_of_ne_false (mt hframe.sp h)),
      fun h => mnemonic_of_writes_dt (eq_true_of_ne_false (mt hframe.dt h)),
      fun h => mnemonic_of_writes_st (eq_true_of_ne_false (mt hframe.st h)),
      fun h => mnemonic_of_writes_index (eq_true_of_ne_false (mt hframe.index h))⟩
    obtain ⟨k, hk⟩ := not_forall.1 (mt hframe.stack_eq h)
    exact mnemonic_of_writes_stack (eq_true_of_ne_false hk)
  · exact ⟨rfl, fun h => absurd rfl h, fun h => absurd rfl h, fun h => absurd rfl h, fun h => absurd rfl h,
      fun h => absurd rfl h, fun h => absurd rfl h, fun h => absurd rfl h⟩

/-- The writers of VF: the seven of R23, and the instructions whose destination is `Vx` with `X` = 15. -/
theorem writers_of_flag {i : Instr} {s : State} (h : (i.writes s).regs vF = true) :
    i.mnemonic ∈ [Mnemonic.addReg, .sub, .subn, .shr, .shl, .drw, .addI] ∨
    (i.asmLine.operands.head? = some 15 ∧
      i.mnemonic ∈ [Mnemonic.ldImm, .addImm, .ldReg, .orReg, .andReg, .xorReg, .rnd, .ldVxDt, .ldVxK, .ldRegs]) := by
  cases i with
  | addReg _ _ | sub _ _ | subn _ _ | shr _ _ | shl _ _ | drw _ _ _ | addI _ => exact .inl (by simp [Instr.mnemonic])
  | ldImm x _ | addImm x _ | ldReg x _ | orReg x _ | andReg x _ | xorReg x _ | rnd x _ | ldVxDt x =>
    obtain rfl : vF = x := beq_iff_eq.1 h
    exact .inr ⟨rfl, by simp [Instr.mnemonic]⟩
  | ldVxK x =>
    obtain rfl : vF = x := beq_iff_eq.1 (Bool.and_eq_true_iff.1 h).1
    exact .inr ⟨rfl, by simp [Instr.mnemonic]⟩
  | ldRegs x =>
    have hx := x.isLt
    have hge : 15 ≤ x.toNat := of_decide_eq_true h
    obtain rfl : x = vF := BitVec.eq_of_toNat_eq (show x.toNat = 15 by omega)
    exact .inr ⟨rfl, by simp [Instr.mnemonic]⟩
  | _ => cases h

/-- Settles O17: VF changed, so the instruction lists it. -/
theorem flagRegisterHasItsOwnWriters : Obligations.FlagRegisterHasItsOwnWriters := by
  intro i s t hexec hne
  obtain rfl | ⟨c, w, a, rfl⟩ := exec_next_cases hexec
  · exact writers_of_flag (eq_true_of_ne_false (mt ((unchanged_effect i s).regs vF) hne))
  · exact absurd (s.raise_reg c w a vF) hne

/-! ### The random byte is RND's (R129) -/

section

variable (s : State) (n : Nat)

theorem State.setRegsFrom_draws : ∀ (bytes : List Byte) (s : State) (k : Nat),
    { s with draws := n }.setRegsFrom k bytes = { s.setRegsFrom k bytes with draws := n }
  | [], _, _ => rfl
  | b :: bytes, s, k => State.setRegsFrom_draws bytes (s.setReg (BitVec.ofNat 4 k) b) (k + 1)

theorem State.skipIf_draws (c : Bool) : { s with draws := n }.skipIf c = { s.skipIf c with draws := n } := by
  cases c <;> rfl

theorem State.getKey_draws_comm (choose : KeyIx → List KeyIx → KeyIx) (x : RegIx) :
    { s with draws := n }.getKey choose x = { s.getKey choose x with draws := n } := by
  rw [State.getKey, State.getKey, show ({ s with draws := n } : State).pressed = s.pressed from rfl]
  cases s.pressed <;> rfl

theorem effect_draws {i : Instr} (h : i.isRnd = false) :
    i.effect { s with draws := n } = { i.effect s with draws := n } := by
  cases i with
  | rnd _ _ => cases h
  | seImm _ _ | sneImm _ _ | seReg _ _ | sneReg _ _ | skp _ | sknp _ => exact s.skipIf_draws n _
  | ldVxK x => exact s.getKey_draws_comm n keyPriority x
  | addI x =>
    rw [Instr.effect, Instr.effect]
    split <;> rfl
  | ldRegs x => exact State.setRegsFrom_draws n _ s.advance 0
  | _ => rfl

theorem faultCause_draws (i : Instr) : i.faultCause { s with draws := n } = i.faultCause s := by
  cases i <;> rfl

theorem faultAddr_draws (i : Instr) : i.faultAddr { s with draws := n } = i.faultAddr s := by
  cases i <;> rfl

end

/-- Settles O18: neither the fault of an instruction nor, but for RND, its effect reads the count of bytes. -/
theorem onlyRndReadsTheRandomByte : Obligations.OnlyRndReadsTheRandomByte := by
  intro i s t n hi hexec
  obtain ⟨hf, hc, heffect⟩ | ⟨c, hf, hraise⟩ | ⟨_, hstop⟩ := exec_cases i s
  · cases heffect.symm.trans hexec
    refine ⟨(unchanged_effect i s).draws ?_, ?_⟩
    · exact Bool.eq_false_iff.2 (mt isRnd_of_writes_draws (by simp [hi]))
    · rw [exec_of_completes ((faultCause_draws s n i).trans hf) hc, effect_draws s n hi]
  · cases hraise.symm.trans hexec
    refine ⟨rfl, ?_⟩
    rw [exec_of_faultCause ((faultCause_draws s n i).trans hf), faultAddr_draws]
    rfl
  · cases hstop.symm.trans hexec

end Sys2Proof.Machine

/-! The cycle (spec/40_cycle.md R120 to R129) and its faults (spec/60_exceptions.md R241 to R249). -/

namespace Sys2Proof.Machine

/-! ### Running the word at `pc` -/

/-- Settles O8: the two bytes are the word of the fetch. -/
theorem stepRunsTheDecodedInstruction : Obligations.StepRunsTheDecodedInstruction :=
  fun s _ hrun hpc hdec => step_of_decoded hrun (s.fetch_of_le hpc) hdec

/-- Settles O9: the record is all that `raiseUnrecognized` writes; with nothing loaded the word at 0x200 is 0x0000. -/
theorem illegalWordsAreRecorded : Obligations.IllegalWordsAreRecorded :=
  ⟨fun _ _ hrun hfetch hdec => step_of_illegal hrun hfetch hdec,
    step_of_illegal (w := 0x0000) rfl rfl (by decide)⟩

/-- Two bytes placed where a fetch reads are the word that it gives (R67). -/
theorem State.fetch_of_placed {s : State} {m : Memory} {w : Word} (hw : m.wf = true) (hpc : s.pc.toNat ≤ 4094)
    (hmem : s.mem = m.pokeMany s.pc.toNat (bytesOfWord w)) : s.fetch = .ok w := by
  have hfit : s.pc.toNat + (bytesOfWord w).length ≤ 4096 := Nat.add_le_add_right hpc 2
  have hhigh : s.mem.peek s.pc.toNat = w.extractLsb' 8 8 := hmem ▸ Memory.peek_pokeMany (k := 0) hw hfit Nat.zero_lt_two
  have hlow : s.mem.peek (s.pc.toNat + 1) = w.extractLsb' 0 8 :=
    hmem ▸ Memory.peek_pokeMany (k := 1) hw hfit Nat.one_lt_two
  rw [s.fetch_of_le hpc, hhigh, hlow, wordOfBytes_bytes]

theorem State.withFetchWord_pc_le (s : State) (nbits w : Nat) : (s.withFetchWord nbits w).pc.toNat ≤ 4094 := by
  simp only [State.withFetchWord]
  split
  · assumption
  · decide

theorem State.fetch_withFetchWord (s : State) (w : Word) (hw : s.mem.wf = true) :
    (s.withFetchWord 16 w.toNat).fetch = .ok w := by
  have hword : BitVec.ofNat 16 (w.toNat % 2 ^ 16) = w := by
    rw [Nat.mod_eq_of_lt w.isLt, BitVec.ofNat_toNat, BitVec.setWidth_eq]
  refine State.fetch_of_placed hw (s.withFetchWord_pc_le 16 _) ?_
  conv_rhs => rw [← hword]
  rfl

/-- Settles O13: the placed word is fetched, and the word of an instruction decodes to it. -/
theorem placedInstructionRunsNext : Obligations.PlacedInstructionRunsNext :=
  fun i s hw => step_of_decoded rfl (s.fetch_withFetchWord (encode i) hw) (decodeOfEncodeIsTheInstruction i)

/-- The bytes of a jump to `pc` itself are its word. -/
theorem wordOfBytes_selfJump {pc : Word} {hi lo : Byte} (hpc : pc.toNat ≤ 4094) (hhi : hi.toNat = 16 + pc.toNat / 256)
    (hlo : lo.toNat = pc.toNat % 256) : wordOfBytes hi lo = encode (.jp (pc.setWidth 12)) := by
  apply BitVec.eq_of_toNat_eq
  simp only [wordOfBytes, encode, BitVec.toNat_append, BitVec.toNat_setWidth, BitVec.toNat_ofNat]
  rw [← Nat.shiftLeft_add_eq_or_of_lt lo.isLt, ← Nat.shiftLeft_add_eq_or_of_lt (by omega)]
  omega

/-- Settles O29: the word is that of JP to `pc`, and such a jump changes nothing. -/
theorem selfJumpIsAFixedPoint : Obligations.SelfJumpIsAFixedPoint := by
  intro s hrun hpc hhi hlo
  have hfetch := s.fetch_of_le hpc
  rw [wordOfBytes_selfJump hpc hhi hlo] at hfetch
  have hself : s.pc.toNat = (s.pc.setWidth 12).toNat := by
    rw [BitVec.toNat_setWidth, Nat.mod_eq_of_lt (by omega)]
  rw [step_of_decoded hrun hfetch (decodeOfEncodeIsTheInstruction _), exec_jp, State.jump_zext16_self hself]

/-! ### Calls within calls (R140, R142) -/

/-- As many calls as there is room for go one level deeper each and do not fault. -/
theorem execAll_calls : ∀ (targets : List Addr) (s : State), s.sp.toNat + targets.length ≤ 16 →
    ∃ t, execAll (targets.map Instr.call) s = .next t ∧ t.sp.toNat = s.sp.toNat + targets.length ∧ t.fault = s.fault
  | [], s, _ => ⟨s, rfl, rfl, rfl⟩
  | nnn :: targets, s, h => by
    simp only [List.length_cons] at h
    have hroom : s.sp.toNat < 16 := by omega
    have hcall := exec_call_of_lt nnn hroom
    obtain ⟨u, hu⟩ : ∃ u, exec (.call nnn) s = .next u ∧ u.sp.toNat = s.sp.toNat + 1 ∧ u.fault = s.fault :=
      ⟨_, hcall, by change (s.sp + 1).toNat = _; bv_omega, rfl⟩
    obtain ⟨hexec, hsp, hfault⟩ := hu
    obtain ⟨t, hall, htsp, htfault⟩ := execAll_calls targets u (by omega)
    refine ⟨t, (execAll_cons_of_next hexec).trans hall, ?_, htfault.trans hfault⟩
    rw [htsp, hsp, List.length_cons]
    omega

/-- A call and the return from it (R140, R142). -/
theorem execAll_call_ret (nnn : Addr) {s : State} (h : s.sp.toNat < 16) :
    ∃ t, execAll [.call nnn, .ret] s = .next t ∧ t.pc = s.pc + 2 ∧ t.sp = s.sp := by
  obtain ⟨u, hcall, _, husp, hcell, _⟩ := (callPushesTheReturnAddress nnn s).2.1 h
  obtain ⟨t, hret, htsp, htpc, _⟩ := (returnPopsTheTopAddress u).2.1 (by omega) (by omega)
  refine ⟨t, (execAll_cons_of_next hcall).trans (execAll_cons_of_next hret), ?_, BitVec.eq_of_toNat_eq (by omega)⟩
  have hsame : s.sp.toNat = u.sp.toNat - 1 := by omega
  rw [htpc ⟨s.sp.toNat, h⟩ hsame, hcell ⟨s.sp.toNat, h⟩ rfl]

/-- Settles O32: the return pops the cell that the call wrote; sixteen calls fill the stack. -/
theorem callsNestSixteenDeepAndReturn : Obligations.CallsNestSixteenDeepAndReturn := by
  refine ⟨fun nnn s h => execAll_call_ret nnn h, fun s targets last hrun hsp hlen => ?_⟩
  have hzero : s.sp.toNat = 0 := congrArg BitVec.toNat hsp
  obtain ⟨t, hall, htsp, htfault⟩ := execAll_calls targets s (by omega)
  have hfull : t.sp.toNat = 16 := by omega
  exact ⟨t, hall, hfull, htfault.trans hrun, exec_call_of_full last hfull⟩

/-! ### Faults (R241, R246, R249) -/

theorem faultAddr_isSome_iff {i : Instr} {s : State} {c : Cause} (h : i.faultCause s = some c) :
    (i.faultAddr s).isSome = true ↔ c = .outOfBounds := by
  cases i with
  | ret | call _ | drw _ _ _ | bcd _ | stRegs _ | ldRegs _ =>
    obtain ⟨_, ⟨⟩⟩ := Option.ite_none_right_eq_some.1 h
    simp [Instr.faultAddr]
  | _ => cases h

/-- Settles O11: a cycle of a running core ends in the record of the fetch, of the dispatch or of the handler, or in an
effect, which keeps the fault absent. -/
theorem faultsArePrecise : Obligations.FaultsArePrecise := by
  intro s t hrun hstep hfault
  obtain ⟨hhalt, _⟩ | ⟨_, a, hfetch, hnext⟩ | ⟨_, w, hfetch, _, hnext⟩ |
    ⟨_, w, i, hfetch, hdec, hnext⟩ := step_cases s
  · exact absurd hrun hhalt
  · cases hnext.symm.trans hstep
    refine ⟨_, rfl, rfl, fun w hw => ?_, fun b hb => ?_, iff_of_true rfl rfl⟩
    · cases hfetch.symm.trans hw
    · cases hfetch.symm.trans hb
      exact ⟨rfl, rfl⟩
  · cases hnext.symm.trans hstep
    refine ⟨_, rfl, rfl, fun w' hw => ?_, fun b hb => ?_, iff_of_false Bool.false_ne_true nofun⟩
    · cases hfetch.symm.trans hw
      rfl
    · cases hfetch.symm.trans hb
  · rw [hstep] at hnext
    obtain ⟨_, _, heffect⟩ | ⟨c, hc, hraise⟩ | ⟨_, hstop⟩ := exec_cases i s
    · cases hnext.trans heffect
      exact absurd ((unchanged_effect i s).fault.trans hrun) hfault
    · cases hnext.trans hraise
      refine ⟨_, rfl, rfl, fun w' hw => ?_, fun b hb => ?_, faultAddr_isSome_iff hc⟩
      · cases hfetch.symm.trans hw
        exact congrArg some (encodeOfDecodeIsTheWord w i hdec)
      · cases hfetch.symm.trans hb
    · cases hnext.trans hstop

/-- Settles O12: each way a cycle can go is the row of the table, in the order that the cycle tests them; without a stop
the handler's outcome is its fault or an effect. -/
theorem cyclesFaultExactlyAsTabulated : Obligations.CyclesFaultExactlyAsTabulated := by
  intro s hrun hsp
  obtain ⟨hhalt, _⟩ | ⟨_, a, hfetch, hnext⟩ | ⟨_, w, hfetch, hdec, hnext⟩ |
    ⟨_, w, i, hfetch, hdec, hnext⟩ := step_cases s
  · exact absurd hrun hhalt
  · exact ⟨_, hnext, by rw [State.cycleCause, hfetch]; rfl⟩
  · exact ⟨_, hnext, by simp only [State.cycleCause, hfetch, hdec]; rfl⟩
  · have hcause : s.cycleCause = i.faultCause s := by simp only [State.cycleCause, hfetch, hdec]
    rw [hnext, hcause]
    obtain ⟨hf, _, heffect⟩ | ⟨c, hf, hraise⟩ | ⟨⟨_, habove⟩, _⟩ := exec_cases i s
    · exact ⟨_, heffect, by rw [(unchanged_effect i s).fault, hrun, hf, Option.map_none]⟩
    · exact ⟨_, hraise, by rw [State.raise_fault, hf, Option.map_some]⟩
    · omega

end Sys2Proof.Machine

/-! The invariant (spec/10_state.md R25 to R28, spec/60_exceptions.md R241): every effect, every record and every
transaction keeps it. -/

namespace Sys2Proof.Machine

/-! ### Updates that keep the invariant -/

section

variable {s t : State} (h : s.Inv)
include h

/-- The invariant speaks of memory, `I`, `pc`, the stack and the fault only. -/
theorem State.Inv.of_eq (hmem : t.mem = s.mem) (hindex : t.index = s.index) (hpc : t.pc = s.pc) (hsp : t.sp = s.sp)
    (hstack : t.stack = s.stack) (hfault : t.fault = s.fault) : t.Inv where
  mem := hmem ▸ h.mem
  index := hindex ▸ h.index
  pc := hpc ▸ h.pc
  sp := hsp ▸ h.sp
  stack := hstack ▸ h.stack
  fault := hfault ▸ h.fault

theorem State.Inv.jump {target : Word} (htarget : target.toNat ≤ 0x10FE) : (s.jump target).Inv :=
  { h with pc := htarget }

theorem State.Inv.setIndex {v : Word} (hv : v.toNat ≤ 0x0FFF) : (s.setIndex v).Inv :=
  { h with index := hv }

theorem State.Inv.setMem {m : Memory} (hm : m.wf = true) : (s.setMem m).Inv :=
  { h with mem := hm }

theorem State.Inv.raise {c : Cause} {w : Option Word} {a : Option Nat}
    (hrecord : FaultRecord.Consistent ⟨c, s.pc, w, a⟩) : (s.raise c w a).Inv :=
  { h with fault := fun _ hf => Option.some.inj hf ▸ hrecord }

theorem State.Inv.advance (hpc : s.pc.toNat ≤ 4094) : s.advance.Inv := by
  refine h.jump (target := s.pc + 2) ?_
  bv_omega

theorem State.Inv.skipIf (hpc : s.pc.toNat ≤ 4094) (c : Bool) : (s.skipIf c).Inv := by
  rw [State.skipIf_eq]
  refine h.jump ?_
  split <;> bv_omega

theorem State.Inv.unlessHalted (ht : t.Inv) : (s.unlessHalted t).Inv := by
  rw [State.unlessHalted]
  split
  · exact h
  · exact ht

/-- The pushed address is at most 4096, since the call was fetched. -/
theorem State.Inv.call (hpc : s.pc.toNat ≤ 4094) (hroom : s.sp.toNat < 16) (nnn : Addr) :
    (Instr.effect (.call nnn) s).Inv where
  mem := h.mem
  index := h.index
  pc := by
    have hnnn := nnn.isLt
    change (zext16 nnn).toNat ≤ 0x10FE
    rw [zext16_toNat]
    omega
  sp := by
    change (s.sp + 1).toNat ≤ 16
    bv_omega
  stack k := by
    have hk := h.stack k
    change (s.stack.setIfInBounds s.sp.toNat (s.pc + 2))[k.val].toNat ≤ 4096
    rw [Vector.getElem_setIfInBounds k.isLt]
    split
    · bv_omega
    · exact hk
  fault := h.fault

/-- The popped address is one of the stack. -/
theorem State.Inv.ret (hpos : s.sp.toNat ≠ 0) : (Instr.effect .ret s).Inv where
  mem := h.mem
  index := h.index
  pc := by
    have hsp := h.sp
    have hcell : s.sp.toNat - 1 < 16 := by omega
    change (s.stack[s.sp.toNat - 1]?.getD 0).toNat ≤ 0x10FE
    rw [Vector.getElem?_eq_getElem hcell]
    exact (h.stack ⟨_, hcell⟩).trans (by decide)
  sp := by
    have hsp := h.sp
    change (s.sp - 1).toNat ≤ 16
    bv_omega
  stack := h.stack
  fault := h.fault

theorem State.Inv.getKey (hpc : s.pc.toNat ≤ 4094) (p : Params) (x : RegIx) : (s.getKey p.keyPriority x).Inv := by
  obtain ⟨_, hget⟩ | ⟨least, more, _, _, hget⟩ := s.getKey_cases p x
  · rwa [hget]
  · rw [hget]
    exact (h.advance hpc).of_eq rfl rfl rfl rfl rfl rfl

/-- Every effect of a fetched instruction keeps the invariant. -/
theorem State.Inv.effect {i : Instr} (hpc : s.pc.toNat ≤ 4094) (hf : i.faultCause s = none) : (i.effect s).Inv := by
  have hadv := h.advance hpc
  cases i with
  | ret => exact h.ret (not_of_ite_none hf)
  | call nnn =>
    have hsp := h.sp
    have hne := not_of_ite_none hf
    exact h.call hpc (by omega) nnn
  | jp nnn | jpV0 nnn =>
    have hnnn := nnn.isLt
    have hv0 := (s.reg v0).isLt
    refine h.jump ?_
    simp only [zext16_toNat, offsetTarget_toNat]
    omega
  | seImm _ _ | sneImm _ _ | seReg _ _ | sneReg _ _ | skp _ | sknp _ => exact h.skipIf hpc _
  | ldI nnn =>
    refine hadv.setIndex ?_
    rw [zext16_toNat]
    exact Nat.le_of_lt_succ nnn.isLt
  | ldF x =>
    refine hadv.setIndex ?_
    rw [glyphAddress_toNat]
    omega
  | addI x =>
    have hindex := hadv.setIndex (indexPlusStep_le s.index)
    rw [Instr.effect]
    split
    · exact hindex.of_eq rfl rfl rfl rfl rfl rfl
    · exact hindex
  | ldVxK x => exact h.getKey hpc Params.default x
  | bcd x =>
    have hfit := not_of_ite_none hf
    exact hadv.setMem (Memory.pokeMany_wf h.mem (by rw [bcdDigits_length]; omega))
  | stRegs x =>
    have hfit := not_of_ite_none hf
    exact hadv.setMem (Memory.pokeMany_wf h.mem (by rw [State.regsUpTo_length]; omega))
  | ldRegs x =>
    rw [Instr.effect, State.setRegsFrom_frame]
    exact hadv.of_eq rfl rfl rfl rfl rfl rfl
  | _ => exact hadv.of_eq rfl rfl rfl rfl rfl rfl

end

/-! ### The records of a cycle (R241, R242) -/

theorem State.pc_of_fetch_ok {s : State} {w : Word} (h : s.fetch = .ok w) : s.pc.toNat ≤ 4094 := by
  obtain ⟨hle, _⟩ | ⟨_, herr⟩ := s.fetch_cases
  · exact hle
  · cases herr.symm.trans h

theorem State.pc_of_fetch_error {s : State} {a : Nat} (h : s.fetch = .error a) :
    4095 ≤ s.pc.toNat ∧ a = max s.pc.toNat 4096 := by
  obtain ⟨_, hok⟩ | ⟨hge, herr⟩ := s.fetch_cases
  · cases hok.symm.trans h
  · cases herr.symm.trans h
    exact ⟨hge, rfl⟩

theorem consistent_of_fetch_error {s : State} {a : Nat} (h : s.fetch = .error a) :
    FaultRecord.Consistent ⟨.outOfBounds, s.pc, none, some a⟩ := by
  obtain ⟨hpc, ha⟩ := State.pc_of_fetch_error h
  refine ⟨iff_of_true rfl rfl, fun b hb => ?_, iff_of_true rfl hpc, fun _ => rfl⟩
  cases hb
  exact ha ▸ le_max_right _ _

/-- A record with a word, from a `pc` that the word was fetched at. -/
theorem consistent_of_word {pc w : Word} {c : Cause} {a : Option Nat} (hpc : pc.toNat ≤ 4094)
    (haddr : a.isSome = true ↔ c = .outOfBounds) (hout : ∀ b, a = some b → 4096 ≤ b) :
    FaultRecord.Consistent ⟨c, pc, some w, a⟩ :=
  ⟨haddr, hout, iff_of_false nofun (Nat.not_le.2 (Nat.lt_succ_of_le hpc)), nofun⟩

theorem faultAddr_out {i : Instr} {s : State} {a : Nat} (h : i.faultAddr s = some a) : 4096 ≤ a := by
  cases i with
  | drw _ _ _ | bcd _ | stRegs _ | ldRegs _ =>
    cases h
    exact le_max_right _ _
  | _ => cases h

/-! ### CYCLE with the host's byte and parameters (R259) -/

section

variable (p : Params) (rand : Byte) (s : State)

section

variable {s}

theorem cycleWith_of_halted (h : s.fault ≠ none) : cycleWith p rand s = .next s := by
  simp [cycleWith, State.halted, State.haltedCycle, Option.isSome_iff_ne_none.2 h]

theorem cycleWith_of_fetch_error {a : Nat} (hrun : s.fault = none) (h : s.fetch = .error a) :
    cycleWith p rand s = .next (s.raiseFetch a) := by
  unfold cycleWith State.halted
  rw [hrun, h]
  rfl

theorem cycleWith_of_illegal {w : Word} (hrun : s.fault = none) (h : s.fetch = .ok w) (hdec : decodeWord w = none) :
    cycleWith p rand s = .next (s.raiseUnrecognized w) := by
  unfold cycleWith State.halted
  rw [hrun, h]
  simp [hdec]

theorem cycleWith_of_decoded {w : Word} {i : Instr} (hrun : s.fault = none) (h : s.fetch = .ok w)
    (hdec : decodeWord w = some i) : cycleWith p rand s = execWith p rand i s := by
  unfold cycleWith State.halted
  rw [hrun, h]
  simp [hdec]

end

/-- Everything a cycle with given byte and parameters can be. -/
theorem cycleWith_cases :
    (s.fault ≠ none ∧ cycleWith p rand s = .next s) ∨
    (s.fault = none ∧ ∃ a, s.fetch = .error a ∧ cycleWith p rand s = .next (s.raiseFetch a)) ∨
    (s.fault = none ∧ ∃ w, s.fetch = .ok w ∧ decodeWord w = none ∧
      cycleWith p rand s = .next (s.raiseUnrecognized w)) ∨
    (s.fault = none ∧ ∃ w i, s.fetch = .ok w ∧ decodeWord w = some i ∧ cycleWith p rand s = execWith p rand i s) := by
  by_cases hrun : s.fault = none
  · cases hfetch : s.fetch with
    | error a => exact .inr (.inl ⟨hrun, a, rfl, cycleWith_of_fetch_error p rand hrun hfetch⟩)
    | ok w =>
      cases hdec : decodeWord w with
      | none => exact .inr (.inr (.inl ⟨hrun, w, rfl, hdec, cycleWith_of_illegal p rand hrun hfetch hdec⟩))
      | some i => exact .inr (.inr (.inr ⟨hrun, w, i, rfl, hdec, cycleWith_of_decoded p rand hrun hfetch hdec⟩))
  · exact .inl ⟨hrun, cycleWith_of_halted p rand hrun⟩

/-- `step` is the cycle at the defaults (log 1, log 2). -/
theorem step_eq_cycleWith : step s = cycleWith Params.default (Config.randByte s.draws) s := by
  obtain ⟨hhalt, hcycle⟩ | ⟨hrun, a, hfetch, hcycle⟩ | ⟨hrun, w, hfetch, hdec, hcycle⟩ |
    ⟨hrun, w, i, hfetch, hdec, hcycle⟩ := cycleWith_cases Params.default (Config.randByte s.draws) s
  · rw [hcycle, step_of_halted hhalt]
  · rw [hcycle, step_of_fetch_error hrun hfetch]
  · rw [hcycle, step_of_illegal hrun hfetch hdec]
  · rw [hcycle, step_of_decoded hrun hfetch hdec, execWith_default]

variable {p rand s} {t : State}

theorem execWith_keeps_inv {i : Instr} (h : s.Inv) (hpc : s.pc.toNat ≤ 4094) (hexec : execWith p rand i s = .next t) :
    t.Inv := by
  obtain ⟨x, nn, rfl, hrnd⟩ | ⟨x, rfl, hkey⟩ | hsame := execWith_cases p s rand i
  · cases hrnd.symm.trans hexec
    exact (h.advance hpc).of_eq rfl rfl rfl rfl rfl rfl
  · cases hkey.symm.trans hexec
    exact h.getKey hpc p x
  · rw [hsame] at hexec
    obtain ⟨hf, _, heffect⟩ | ⟨c, hc, hraise⟩ | ⟨_, hstop⟩ := exec_cases i s
    · cases heffect.symm.trans hexec
      exact h.effect hpc hf
    · cases hraise.symm.trans hexec
      exact h.raise (consistent_of_word hpc (faultAddr_isSome_iff hc) fun _ => faultAddr_out)
    · cases hstop.symm.trans hexec

theorem cycleWith_keeps_inv (h : s.Inv) (hcycle : cycleWith p rand s = .next t) : t.Inv := by
  obtain ⟨_, hnext⟩ | ⟨_, a, hfetch, hnext⟩ | ⟨_, w, hfetch, _, hnext⟩ | ⟨_, w, i, hfetch, _, hnext⟩ :=
    cycleWith_cases p rand s
  · cases hnext.symm.trans hcycle
    exact h
  · cases hnext.symm.trans hcycle
    exact h.raise (consistent_of_fetch_error hfetch)
  · cases hnext.symm.trans hcycle
    exact h.raise (consistent_of_word (State.pc_of_fetch_ok hfetch) (iff_of_false Bool.false_ne_true nofun) nofun)
  · exact execWith_keeps_inv h (State.pc_of_fetch_ok hfetch) (hnext.symm.trans hcycle)

end

/-- Settles O19: a step is a cycle at the defaults, and every outcome of a cycle keeps the invariant. -/
theorem stepKeepsTheInvariant : Obligations.StepKeepsTheInvariant :=
  fun s _ h hstep => cycleWith_keeps_inv h ((step_eq_cycleWith s).symm.trans hstep)

/-- Settles O22: at most 16 return addresses are enough for a cycle to end in a next state, and the invariant says
so. -/
theorem invariantStatesAlwaysStep : Obligations.InvariantStatesAlwaysStep := by
  intro s h
  by_cases hrun : s.fault = none
  · obtain ⟨t, hstep, _⟩ := cyclesFaultExactlyAsTabulated s hrun h.sp
    exact ⟨t, hstep, stepKeepsTheInvariant s t h hstep⟩
  · exact ⟨s, step_of_halted hrun, h⟩

/-! ### Transactions (R14, R265) -/

theorem State.reset_inv : State.reset.Inv where
  mem := rfl
  index := by decide
  pc := by decide
  sp := by decide
  stack := by decide
  fault := nofun

theorem State.resetFor_inv (p : Params) : (State.resetFor p).Inv := State.reset_inv.setMem (State.resetFor_mem_wf p)

/-- Settles O20: the reset state of a machine is `State.reset` with other canonical memory. -/
theorem resetMeetsTheInvariant : Obligations.ResetMeetsTheInvariant := ⟨State.reset_inv, State.resetFor_inv⟩

theorem State.Inv.load {s : State} (h : s.Inv) (start : Nat) (bytes : List Byte) : (s.load start bytes).state.Inv := by
  rw [State.load]
  cases hcopy : s.mem.copyIn start bytes with
  | none => exact h
  | some m => exact h.unlessHalted (h.setMem (Memory.copyIn_wf h.mem hcopy))

theorem State.Inv.setTimer {s : State} (h : s.Inv) (v : Byte) (which : TimerName) : (s.setTimer v which).Inv := by
  cases which
  · exact h.of_eq rfl rfl rfl rfl rfl rfl
  · exact h.of_eq rfl rfl rfl rfl rfl rfl

/-- Where a cycle goes on, the transaction answers that it is done. -/
theorem serve_cycle_of_next {p : Params} {rand : Byte} {s t : State} (h : cycleWith p rand s = .next t) :
    serve p (.cycle rand) s = .next ⟨t, .done⟩ := by
  rw [serve, h]

theorem cycleWith_of_serve {p : Params} {rand : Byte} {s : State} {r : Served}
    (h : serve p (.cycle rand) s = .next r) : cycleWith p rand s = .next r.state := by
  rw [serve] at h
  split at h
  case h_1 hcycle =>
    cases h
    exact hcycle
  all_goals cases h

theorem serve_keeps_inv {p : Params} {tr : Transaction} {s : State} {r : Served} (h : s.Inv)
    (hserve : serve p tr s = .next r) : r.state.Inv := by
  cases tr with
  | cycle rand => exact cycleWith_keeps_inv h (cycleWith_of_serve hserve)
  | reset =>
    cases hserve
    exact (State.resetFor_inv p).of_eq rfl rfl rfl rfl rfl rfl
  | load start bytes =>
    cases hserve
    exact h.load start bytes
  | keyWrite k b =>
    cases hserve
    exact h.unlessHalted (h.of_eq rfl rfl rfl rfl rfl rfl)
  | tick =>
    cases hserve
    exact h.unlessHalted (h.of_eq rfl rfl rfl rfl rfl rfl)
  | timerSet which v =>
    cases hserve
    exact h.unlessHalted (h.setTimer v which)
  | timerGet _ | displayRead | soundActive | faultRead =>
    cases hserve
    exact h

/-- Settles O21: reset meets the invariant and each transaction keeps it. -/
theorem reachableStatesMeetTheInvariant : Obligations.ReachableStatesMeetTheInvariant := by
  intro p
  refine ⟨fun s tr r => serve_keeps_inv, fun s hreach => ?_⟩
  induction hreach with
  | reset => exact State.resetFor_inv p
  | serve s tr r _ hserve ih => exact serve_keeps_inv ih hserve

end Sys2Proof.Machine

/-! The host's transactions (spec/60_exceptions.md R247, R258 to R265, spec/70_reset_and_hazards.md R290, R291). -/

namespace Sys2Proof.Machine

/-! ### A halted core (R127, R247) -/

theorem State.unlessHalted_of_running {s : State} (h : s.fault = none) (t : State) : s.unlessHalted t = t := by
  simp [State.unlessHalted, State.halted, h]

theorem State.unlessHalted_of_halted {s : State} (h : s.fault ≠ none) (t : State) : s.unlessHalted t = s := by
  simp [State.unlessHalted, State.halted, Option.isSome_iff_ne_none.2 h]

theorem State.load_state_of_halted {s : State} (h : s.fault ≠ none) (start : Nat) (bytes : List Byte) :
    (s.load start bytes).state = s := by
  rw [State.load]
  cases s.mem.copyIn start bytes with
  | none => rfl
  | some m => exact s.unlessHalted_of_halted h _

theorem served_congr {s t : State} {reply : Reply} (h : s = t) :
    (.next ⟨s, reply⟩ : Host.Outcome Served Fault Refusal) = .next ⟨t, reply⟩ := by
  rw [h]

/-- A halted core takes no transaction but RESET; the reads answer (decision D22). -/
theorem serve_of_halted {s : State} (h : s.fault ≠ none) (p : Params) {tr : Transaction} (htr : tr ≠ .reset) :
    ∃ reply, serve p tr s = .next ⟨s, reply⟩ := by
  cases tr with
  | reset => exact absurd rfl htr
  | load start bytes => exact ⟨_, served_congr (s.load_state_of_halted h start bytes)⟩
  | cycle rand => exact ⟨_, serve_cycle_of_next (cycleWith_of_halted p rand h)⟩
  | keyWrite _ _ | tick | timerSet _ _ => exact ⟨_, served_congr (s.unlessHalted_of_halted h _)⟩
  | timerGet _ | displayRead | soundActive | faultRead => exact ⟨_, rfl⟩

theorem serveAll_cons_of_next {p : Params} {tr : Transaction} {trs : List Transaction} {s : State} {r : Served}
    (h : serve p tr s = .next r) : serveAll p (tr :: trs) s = serveAll p trs r.state := by
  rw [serveAll, h]

theorem serveAll_of_halted {s : State} (h : s.fault ≠ none) (p : Params) :
    ∀ trs : List Transaction, Transaction.reset ∉ trs → serveAll p trs s = .next s
  | [], _ => rfl
  | tr :: trs, hno => by
    obtain ⟨hne, hno'⟩ := not_or.1 (mt List.mem_cons.2 hno)
    obtain ⟨reply, hserve⟩ := serve_of_halted h p (Ne.symm hne)
    exact (serveAll_cons_of_next hserve).trans (serveAll_of_halted h p trs hno')

/-- Settles O10: each transaction but RESET leaves a halted core as it was, so any run of them does. -/
theorem haltLastsUntilReset : Obligations.HaltLastsUntilReset :=
  fun p _ h => ⟨step_of_halted h, serveAll_of_halted h p, _, rfl, rfl⟩

/-! ### Reset (R41, R290) -/

/-- Settles O24: the fields of `State.reset`, which no parameter but FONT_TABLE enters, and that in memory alone. -/
theorem resetClearsEverythingElse : Obligations.ResetClearsEverythingElse :=
  ⟨by decide, rfl, rfl, by decide, rfl, rfl, rfl, by decide, Display.cell_clear, rfl, State.resetFor_default,
    fun _ => rfl⟩

/-! ### Keys, timers and reads (R261 to R264) -/

theorem decrement_toNat (t : Byte) : (decrement t).toNat = t.toNat - 1 := by
  rw [decrement]
  split <;> bv_omega

/-- Settles O54: TICK of a running core is `State.tick`, which writes the two timers. -/
theorem tickCountsBothTimersDownToZero : Obligations.TickCountsBothTimersDownToZero := by
  intro p s hrun
  refine ⟨s.tick, by rw [serve, s.unlessHalted_of_running hrun], decrement_toNat _, decrement_toNat _, rfl, ?_⟩
  exact ⟨fun _ _ => rfl, fun _ => rfl, fun _ => rfl, fun _ _ => rfl, nofun, nofun, rfl, fun _ => rfl,
    fun _ _ => rfl, rfl, fun _ => rfl⟩

theorem State.setKey_key (s : State) (k j : KeyIx) (b : Bool) :
    (s.setKey k b).key j = if j = k then b else s.key j := by
  simp only [State.key, State.setKey_keys, Vector.getElem_set, ← BitVec.toNat_inj, eq_comm]

/-- Settles O55: on a running core each of the writes is one field, and a read answers one. -/
theorem hostWritesKeysAndTimers : Obligations.HostWritesKeysAndTimers := by
  intro p s hrun
  refine ⟨fun k b => ⟨s.setKey k b, ?_, fun j => s.setKey_key k j b, rfl⟩, fun v => ⟨?_, ?_⟩, rfl, rfl⟩
  · rw [serve, s.unlessHalted_of_running hrun]
  · rw [serve, s.unlessHalted_of_running hrun]
    rfl
  · rw [serve, s.unlessHalted_of_running hrun]
    rfl

/-- Settles O56: LOAD is the bulk copy, whose test on the sum decides. -/
theorem loadPlacesBytesOrReports : Obligations.LoadPlacesBytesOrReports := by
  intro p s start bytes hrun hw
  refine ⟨fun hfit => ⟨s.setMem (s.mem.pokeMany start bytes), ?_, fun _ hk => Memory.peek_pokeMany hw hfit hk,
    fun _ hout => Memory.peek_pokeMany_other hout, rfl⟩, fun hout => ?_⟩
  · rw [serve, State.load, s.mem.copyIn_of_le hfit, ← s.unlessHalted_of_running hrun (s.setMem _)]
  · rw [serve, State.load, s.mem.copyIn_of_gt hout]

/-- The rows one after the other are the flattened display. -/
theorem Display.cells_eq_toList_flatten (d : Display) : Display.cells d = (Vector.flatten d).toList := by
  obtain ⟨rows, hrows⟩ := d
  simp only [Display.cells, Vector.flatten_mk, Vector.toList_mk, Array.toList_flatten, Array.toList_map, List.map_map]
  rfl

/-- Position `yy * 64 + xx` of the cells is the cell `xx` of the row `yy` (R35). -/
theorem Display.cells_getElem? (d : Display) (xx : Fin 64) (yy : Fin 32) :
    (Display.cells d)[yy.val * 64 + xx.val]? = some (d.cell xx yy) := by
  have hpos : yy.val * 64 + xx.val < 32 * 64 := by omega
  have hrow : (yy.val * 64 + xx.val) / 64 = yy.val := by omega
  have hcol : (yy.val * 64 + xx.val) % 64 = xx.val := by omega
  rw [Display.cells_eq_toList_flatten, Vector.getElem?_toList, Vector.getElem?_flatten, dif_pos hpos]
  simp only [hrow, hcol]
  rfl

/-- Settles O57: the cells are the rows one after the other; no read writes. -/
theorem hostReadsAnswerAndChangeNothing : Obligations.HostReadsAnswerAndChangeNothing := by
  intro p s
  refine ⟨⟨_, rfl, ?_, Display.cells_getElem? s.disp⟩, ⟨_, rfl, s.soundIsActive_iff⟩, rfl⟩
  rw [Display.cells_eq_toList_flatten, Vector.length_toList]

/-! ### Instructions under other bytes and parameters (R129, R225) -/

/-- With at most one key down every KEY_PRIORITY chooses as the default does. -/
theorem State.getKey_eq_of_length_le (p : Params) {s : State} (x : RegIx) (h : s.pressed.length ≤ 1) :
    s.getKey p.keyPriority x = s.getKey keyPriority x := by
  simp only [State.getKey]
  match hpressed : s.pressed with
  | [] => rfl
  | [k] =>
    have honly : p.keyPriority k [] = k := List.mem_singleton.1 (p.keyIsPressed k [])
    simp only [honly, keyPriority]
  | _ :: _ :: _ => simp [hpressed] at h

/-- Byte and parameters matter to RND, and to LD_VX_K with several keys down, only. -/
theorem execWith_eq_exec (p : Params) (rand : Byte) {i : Instr} {s : State} (hrnd : i.isRnd = false)
    (hkeys : (∃ x, i = .ldVxK x) → s.pressed.length ≤ 1) : execWith p rand i s = exec i s := by
  cases i with
  | rnd _ _ => cases hrnd
  | ldVxK x => exact congrArg Host.Outcome.next (State.getKey_eq_of_length_le p x (hkeys ⟨x, rfl⟩))
  | _ => rfl

/-! ### Nothing survives a reset but the count of bytes (R290, R291; log 1)

States that differ in the count alone stay so under every transaction. -/

section

variable {p : Params} {s t : State} (n : Nat)

theorem exists_of_isRnd {i : Instr} (h : i.isRnd = true) : ∃ x nn, i = .rnd x nn := by
  cases i with
  | rnd x nn => exact ⟨x, nn, rfl⟩
  | _ => cases h

theorem execWith_draws {rand : Byte} {i : Instr} (h : execWith p rand i s = .next t) :
    ∃ n', execWith p rand i { s with draws := n } = .next { t with draws := n' } := by
  by_cases hkey : ∃ x, i = .ldVxK x
  · obtain ⟨x, rfl⟩ := hkey
    cases h
    exact ⟨n, congrArg Host.Outcome.next (s.getKey_draws_comm n p.keyPriority x)⟩
  · by_cases hrnd : i.isRnd = true
    · obtain ⟨x, nn, rfl⟩ := exists_of_isRnd hrnd
      cases h
      exact ⟨n + 1, rfl⟩
    · have hrnd' := Bool.eq_false_iff.2 hrnd
      have hsame (u : State) : execWith p rand i u = exec i u := execWith_eq_exec p rand hrnd' fun h => absurd h hkey
      rw [hsame] at h ⊢
      exact ⟨n, (onlyRndReadsTheRandomByte i s t n hrnd' h).2⟩

theorem cycleWith_draws {rand : Byte} (h : cycleWith p rand s = .next t) :
    ∃ n', cycleWith p rand { s with draws := n } = .next { t with draws := n' } := by
  obtain ⟨hhalt, hnext⟩ | ⟨hrun, a, hfetch, hnext⟩ | ⟨hrun, w, hfetch, hdec, hnext⟩ |
    ⟨hrun, w, i, hfetch, hdec, hnext⟩ := cycleWith_cases p rand s
  · cases hnext.symm.trans h
    exact ⟨n, cycleWith_of_halted p rand hhalt⟩
  · cases hnext.symm.trans h
    exact ⟨n, cycleWith_of_fetch_error p rand hrun hfetch⟩
  · cases hnext.symm.trans h
    exact ⟨n, cycleWith_of_illegal p rand hrun hfetch hdec⟩
  · obtain ⟨n', hexec⟩ := execWith_draws n (hnext.symm.trans h)
    exact ⟨n', (cycleWith_of_decoded (s := { s with draws := n }) p rand hrun hfetch hdec).trans hexec⟩

theorem State.unlessHalted_draws (s t : State) :
    ({ s with draws := n } : State).unlessHalted { t with draws := n } = { s.unlessHalted t with draws := n } := by
  rw [State.unlessHalted, State.unlessHalted, show ({ s with draws := n } : State).halted = s.halted from rfl]
  cases s.halted <;> rfl

theorem State.load_draws (s : State) (start : Nat) (bytes : List Byte) :
    ({ s with draws := n } : State).load start bytes =
      ⟨{ (s.load start bytes).state with draws := n }, (s.load start bytes).reply⟩ := by
  simp only [State.load]
  cases s.mem.copyIn start bytes with
  | none => rfl
  | some m => exact congrArg (Served.mk · _) (State.unlessHalted_draws n s (s.setMem m))

theorem serve_draws {tr : Transaction} {r : Served} (h : serve p tr s = .next r) :
    ∃ n', serve p tr { s with draws := n } = .next ⟨{ r.state with draws := n' }, r.reply⟩ := by
  cases tr with
  | cycle rand =>
    obtain ⟨u, reply⟩ := r
    obtain ⟨n', hcycle⟩ := cycleWith_draws n (cycleWith_of_serve h)
    cases (serve_cycle_of_next (cycleWith_of_serve h)).symm.trans h
    exact ⟨n', serve_cycle_of_next hcycle⟩
  | load start bytes =>
    cases h
    exact ⟨n, congrArg Host.Outcome.next (s.load_draws n start bytes)⟩
  | keyWrite k b =>
    cases h
    exact ⟨n, served_congr (State.unlessHalted_draws n s (s.setKey k b))⟩
  | tick =>
    cases h
    exact ⟨n, served_congr (State.unlessHalted_draws n s s.tick)⟩
  | timerSet which v =>
    cases h
    cases which
    · exact ⟨n, served_congr (State.unlessHalted_draws n s { s with dt := v })⟩
    · exact ⟨n, served_congr (State.unlessHalted_draws n s { s with st := v })⟩
  | timerGet which =>
    cases h
    cases which <;> exact ⟨n, rfl⟩
  | reset | displayRead | soundActive | faultRead =>
    cases h
    exact ⟨n, rfl⟩

/-- A run of transactions as the first one served and the rest. -/
theorem exists_of_serveAll_cons {tr : Transaction} {trs : List Transaction} (h : serveAll p (tr :: trs) s = .next t) :
    ∃ r, serve p tr s = .next r ∧ serveAll p trs r.state = .next t := by
  rw [serveAll] at h
  split at h
  case h_1 r hserve => exact ⟨r, hserve, h⟩
  all_goals cases h

theorem serveAll_draws {trs : List Transaction} (h : serveAll p trs s = .next t) :
    ∃ n', serveAll p trs { s with draws := n } = .next { t with draws := n' } := by
  induction trs generalizing s n with
  | nil =>
    cases h
    exact ⟨n, rfl⟩
  | cons tr trs ih =>
    obtain ⟨r, hserve, hrest⟩ := exists_of_serveAll_cons h
    obtain ⟨m, hserve'⟩ := serve_draws n hserve
    obtain ⟨n', hrest'⟩ := ih m hrest
    exact ⟨n', (serveAll_cons_of_next hserve').trans hrest'⟩

end

/-- Settles O58: after RESET the two states differ in the count of bytes alone. -/
theorem resetRestoresTheResetState : Obligations.ResetRestoresTheResetState := by
  refine ⟨fun p s => rfl, fun p s s' t trs h => ?_⟩
  obtain ⟨n, hrest⟩ := serveAll_draws s'.draws (s := s.resetAgain p) h
  exact ⟨_, hrest, rfl⟩

/-! ### CYCLE and `step` (R259) -/

/-- Settles O59: `step` is the cycle at the defaults, and a cycle differs from it in the decoded instruction only. -/
theorem cycleTransactionIsStep : Obligations.CycleTransactionIsStep := by
  refine ⟨fun s t hstep => serve_cycle_of_next ((step_eq_cycleWith s).symm.trans hstep),
    fun p s t rand hstep hinstr => ?_⟩
  apply serve_cycle_of_next
  obtain ⟨hhalt, hnext⟩ | ⟨hrun, a, hfetch, hnext⟩ | ⟨hrun, w, hfetch, hdec, hnext⟩ |
    ⟨hrun, w, i, hfetch, hdec, hnext⟩ := cycleWith_cases p rand s
  · rw [hnext, ← hstep, step_of_halted hhalt]
  · rw [hnext, ← hstep, step_of_fetch_error hrun hfetch]
  · rw [hnext, ← hstep, step_of_illegal hrun hfetch hdec]
  · obtain ⟨hrnd, hkeys⟩ := hinstr w i hfetch hdec
    rw [hnext, ← hstep, step_of_decoded hrun hfetch hdec, execWith_eq_exec p rand hrnd hkeys]

end Sys2Proof.Machine
